-- ==== Sys2Proof/Word.lean ====
section
/-! DEFINITION. The word types of the core: bytes and 32-bit words.
Every host-visible register and every command word is 32 bits wide (00_scope.md R6, 10_state.md R16). -/

namespace Sys2Proof

/-- A byte (00_scope.md R7). -/
abbrev Byte := BitVec 8

/-- A host-visible register value or a command word (R6 `REG_WIDTH`). -/
abbrev Word := BitVec 32

/-- A byte string (00_scope.md R7): element 0 is `s[0]`. -/
abbrev Bytes := List Byte

end Sys2Proof
end

