-- ==== Sys2Proof/Syntax.lean ====
section
/-! DEFINITION. The command set: one constructor per row of spec/opcode_table.json (30_encoding.md R68). -/

namespace Sys2Proof

/-- A command. `lf` and `bf` are the flags LAST (w[8]) and BEGIN (w[9]); `bs` is the block size BS (w[23:16]) (R66). -/
inductive Instr where
  /-- NOP, 45_system.md R151 -/
  | nop
  /-- KEY, 40_block_ciphers.md R100 -/
  | key
  /-- CTX, 43_modes.md R121 -/
  | ctx
  /-- ENCB, 40_block_ciphers.md R101 -/
  | encb
  /-- DECB, 40_block_ciphers.md R102 -/
  | decb
  /-- ENC, 43_modes.md R134 -/
  | enc (lf bf : Bool)
  /-- DEC, 43_modes.md R135 -/
  | dec (lf bf : Bool)
  /-- PAD, 42_padding.md R118 -/
  | pad (bs : Nat)
  /-- UNPAD, 42_padding.md R119 -/
  | unpad (bs : Nat)
  /-- RC4KEY, 41_rc4.md R105 -/
  | rc4key
  /-- RC4, 41_rc4.md R106 -/
  | rc4
  /-- DHI, 44_dh_modexp.md R142 -/
  | dhi
  /-- DHR, 44_dh_modexp.md R143 -/
  | dhr
  /-- DHS, 44_dh_modexp.md R144 -/
  | dhs
  /-- DHK, 44_dh_modexp.md R145 -/
  | dhk
  /-- SRST, 45_system.md R152 -/
  | srst
deriving DecidableEq, Repr

end Sys2Proof
end

