-- ==== Sys2Proof/WellFormed.lean ====
section
/-! DEFINITION. Which commands a command word can carry: BS is an 8-bit field (30_encoding.md R66), the flags are bits.
BS = 0 is a legal word; the command itself refuses it (R68). -/

namespace Sys2Proof

/-- The command fits the fields of R66. -/
def Instr.wellFormed : Instr → Bool
  | .pad bs => decide (bs < 256)
  | .unpad bs => decide (bs < 256)
  | .nop | .key | .ctx | .encb | .decb | .enc _ _ | .dec _ _ => true
  | .rc4key | .rc4 | .dhi | .dhr | .dhs | .dhk | .srst => true

end Sys2Proof
end

