-- ==== Sys2Proof/Decode.lean ====
section
/-! DEFINITION. The decoder and the encoder of command words (30_encoding.md R66 to R70).
A decoder reads OP first; OP alone fixes which other fields exist, and every other bit must be 0 (R66, R68). -/

namespace Sys2Proof

/-- Why a word is illegal (30_encoding.md R69). The engine answers both with IllegalCommand. -/
inductive DecodeReject where
  /-- OP in 0x10..0xFF is reserved -/
  | unknownOpcode (op : Byte)
  /-- a known OP with a nonzero bit outside its legal fields -/
  | reservedBits (w : Word)
  /-- a byte string that does not hold one whole 32-bit word (R70) -/
  | notOneWord (n : Nat)
deriving DecidableEq, Repr

/-- OP, bits [7:0] (R66). -/
def opField (w : Word) : Byte := w.extractLsb' 0 8

/-- L, bit [8] (R66). -/
def lastField (w : Word) : Bool := w.getLsbD 8

/-- B, bit [9] (R66). -/
def beginField (w : Word) : Bool := w.getLsbD 9

/-- BS, bits [23:16], zero-extended and unscaled (R66, R67). -/
def bsField (w : Word) : Nat := (w.extractLsb' 16 8).toNat

/-- A row with mask 0xFFFFFFFF: every bit above OP is 0 (R68). -/
def decodePlain (w : Word) (i : Instr) : Except DecodeReject Instr :=
  if w.extractLsb' 8 24 = 0#24 then .ok i else .error (.reservedBits w)

/-- A row with mask 0xFFFFFCFF: L and B take any value, bits [31:10] are 0 (R68). -/
def decodeFlagged (w : Word) (mk : Bool → Bool → Instr) : Except DecodeReject Instr :=
  if w.extractLsb' 10 22 = 0#22 then .ok (mk (lastField w) (beginField w)) else .error (.reservedBits w)

/-- A row with mask 0xFF00FFFF: BS takes any value, bits [15:8] and [31:24] are 0 (R68). -/
def decodeSized (w : Word) (mk : Nat → Instr) : Except DecodeReject Instr :=
  if w.extractLsb' 8 8 = 0#8 ∧ w.extractLsb' 24 8 = 0#8 then .ok (mk (bsField w)) else .error (.reservedBits w)

/-- The command a word stands for, or why it is illegal (R68, R69). -/
def decode (w : Word) : Except DecodeReject Instr :=
  match (opField w).toNat with
  | 0x00 => decodePlain w .nop
  | 0x01 => decodePlain w .key
  | 0x02 => decodePlain w .ctx
  | 0x03 => decodePlain w .encb
  | 0x04 => decodePlain w .decb
  | 0x05 => decodeFlagged w .enc
  | 0x06 => decodeFlagged w .dec
  | 0x07 => decodeSized w .pad
  | 0x08 => decodeSized w .unpad
  | 0x09 => decodePlain w .rc4key
  | 0x0A => decodePlain w .rc4
  | 0x0B => decodePlain w .dhi
  | 0x0C => decodePlain w .dhr
  | 0x0D => decodePlain w .dhs
  | 0x0E => decodePlain w .dhk
  | 0x0F => decodePlain w .srst
  | _ => .error (.unknownOpcode (opField w))

/-- A word from its four bytes, the lowest address in bits [7:0] (20_memory.md R45). -/
def wordOfBytes (b0 b1 b2 b3 : Byte) : Word := b3 ++ b2 ++ b1 ++ b0

/-- Decoding is total on any byte string: anything but the four bytes of one word is rejected (R70). -/
def decodeBytes : Bytes → Except DecodeReject Instr
  | [b0, b1, b2, b3] => decode (wordOfBytes b0 b1 b2 b3)
  | bs => .error (.notOneWord bs.length)

/-- What the decoder reads from the table's numbering of a row's bits: bit 0 is the least significant bit of the one
32-bit word, and bits above `nbits` are 0. The word is laid out as its four bytes and given to the decoder. -/
def decodeTableWord (nbits w : Nat) : Option Instr :=
  let v : Word := BitVec.ofNat 32 (w % 2 ^ nbits)
  (decodeBytes [v.extractLsb' 0 8, v.extractLsb' 8 8, v.extractLsb' 16 8, v.extractLsb' 24 8]).toOption

/-- A word whose only field is OP. -/
def encodePlain (op : Byte) : Word := 0#24 ++ op

/-- A word with the fields OP, L and B (R66). -/
def encodeFlagged (op : Byte) (lf bf : Bool) : Word := 0#22 ++ BitVec.ofBool bf ++ BitVec.ofBool lf ++ op

/-- A word with the fields OP and BS (R66). -/
def encodeSized (op : Byte) (bs : Nat) : Word := 0#8 ++ BitVec.ofNat 8 bs ++ 0#8 ++ op

/-- The word of a well-formed command (R66, R68). -/
def encode : Instr → Word
  | .nop => encodePlain 0x00
  | .key => encodePlain 0x01
  | .ctx => encodePlain 0x02
  | .encb => encodePlain 0x03
  | .decb => encodePlain 0x04
  | .enc lf bf => encodeFlagged 0x05 lf bf
  | .dec lf bf => encodeFlagged 0x06 lf bf
  | .pad bs => encodeSized 0x07 bs
  | .unpad bs => encodeSized 0x08 bs
  | .rc4key => encodePlain 0x09
  | .rc4 => encodePlain 0x0A
  | .dhi => encodePlain 0x0B
  | .dhr => encodePlain 0x0C
  | .dhs => encodePlain 0x0D
  | .dhk => encodePlain 0x0E
  | .srst => encodePlain 0x0F

/-- The match value of a command's row in the opcode map (R68). -/
def matchOf : Instr → Word
  | .nop => 0x00000000
  | .key => 0x00000001
  | .ctx => 0x00000002
  | .encb => 0x00000003
  | .decb => 0x00000004
  | .enc _ _ => 0x00000005
  | .dec _ _ => 0x00000006
  | .pad _ => 0x00000007
  | .unpad _ => 0x00000008
  | .rc4key => 0x00000009
  | .rc4 => 0x0000000A
  | .dhi => 0x0000000B
  | .dhr => 0x0000000C
  | .dhs => 0x0000000D
  | .dhk => 0x0000000E
  | .srst => 0x0000000F

/-- The mask of a command's row in the opcode map (R68). -/
def maskOf : Instr → Word
  | .enc _ _ | .dec _ _ => 0xFFFFFCFF
  | .pad _ | .unpad _ => 0xFF00FFFF
  | .nop | .key | .ctx | .encb | .decb | .rc4key | .rc4 => 0xFFFFFFFF
  | .dhi | .dhr | .dhs | .dhk | .srst => 0xFFFFFFFF

end Sys2Proof
end

