-- ==== Sys2Proof/Machine/Bytes.lean ====
section
/-! DEFINITION. Byte strings and their conversions to and from integers (00_scope.md R7, R8). -/

namespace Sys2Proof.Machine

/-- LE(s): the unsigned integer whose least significant byte is `s[0]` (R8). -/
def leNat : Bytes → Nat
  | [] => 0
  | b :: bs => b.toNat + 256 * leNat bs

/-- BE(s): the unsigned integer whose most significant byte is `s[0]` (R8). -/
def beNat (bs : Bytes) : Nat := leNat bs.reverse

/-- toLE_n(v): the n-byte little-endian encoding of v mod 2^(8n) (R8). -/
def toLE : Nat → Nat → Bytes
  | 0, _ => []
  | n + 1, v => BitVec.ofNat 8 v :: toLE n (v / 256)

/-- toBE_n(v): the n-byte big-endian encoding of v mod 2^(8n) (R8). -/
def toBE (n v : Nat) : Bytes := (toLE n v).reverse

/-- 0^n: n zero bytes (R7). -/
def zeroBytes (n : Nat) : Bytes := List.replicate n 0#8

/-- a ⊕ b: bytewise XOR of equal-length strings (R7); of unequal ones, of their common length. -/
def xorBytes (a b : Bytes) : Bytes := List.zipWith (· ^^^ ·) a b

/-- trunc(s, n) (R7). -/
def truncBytes (s : Bytes) (n : Nat) : Bytes := s.take n

/-- The blocks s[tB .. min((t+1)B, n)) for t = 0 .. ceil(n/B) − 1 (43_modes.md R134). -/
def blocksOf (b : Nat) (s : Bytes) : List Bytes :=
  (List.range ((s.length + (b - 1)) / b)).map fun t => (s.drop (t * b)).take b

end Sys2Proof.Machine
end

