-- ==== Sys2Proof/Machine/Des.lean ====
section
/-! DEFINITION. DES64 and TripleDES64 (40_block_ciphers.md R74 to R89). -/

namespace Sys2Proof.Machine

/-- The initial permutation IP (R75). -/
def desIP : List Nat := [
  58, 50, 42, 34, 26, 18, 10, 2,
  60, 52, 44, 36, 28, 20, 12, 4,
  62, 54, 46, 38, 30, 22, 14, 6,
  64, 56, 48, 40, 32, 24, 16, 8,
  57, 49, 41, 33, 25, 17, 9, 1,
  59, 51, 43, 35, 27, 19, 11, 3,
  61, 53, 45, 37, 29, 21, 13, 5,
  63, 55, 47, 39, 31, 23, 15, 7]

/-- The final permutation FP (R76). -/
def desFP : List Nat := [
  40, 8, 48, 16, 56, 24, 64, 32,
  39, 7, 47, 15, 55, 23, 63, 31,
  38, 6, 46, 14, 54, 22, 62, 30,
  37, 5, 45, 13, 53, 21, 61, 29,
  36, 4, 44, 12, 52, 20, 60, 28,
  35, 3, 43, 11, 51, 19, 59, 27,
  34, 2, 42, 10, 50, 18, 58, 26,
  33, 1, 41, 9, 49, 17, 57, 25]

/-- The expansion E (R77). -/
def desE : List Nat := [
  32, 1, 2, 3, 4, 5,
  4, 5, 6, 7, 8, 9,
  8, 9, 10, 11, 12, 13,
  12, 13, 14, 15, 16, 17,
  16, 17, 18, 19, 20, 21,
  20, 21, 22, 23, 24, 25,
  24, 25, 26, 27, 28, 29,
  28, 29, 30, 31, 32, 1]

/-- The permutation P (R78). -/
def desP : List Nat := [
  16, 7, 20, 21,
  29, 12, 28, 17,
  1, 15, 23, 26,
  5, 18, 31, 10,
  2, 8, 24, 14,
  32, 27, 3, 9,
  19, 13, 30, 6,
  22, 11, 4, 25]

/-- Permuted choice 1 (R79). -/
def desPC1 : List Nat := [
  57, 49, 41, 33, 25, 17, 9,
  1, 58, 50, 42, 34, 26, 18,
  10, 2, 59, 51, 43, 35, 27,
  19, 11, 3, 60, 52, 44, 36,
  63, 55, 47, 39, 31, 23, 15,
  7, 62, 54, 46, 38, 30, 22,
  14, 6, 61, 53, 45, 37, 29,
  21, 13, 5, 28, 20, 12, 4]

/-- Permuted choice 2 (R80). -/
def desPC2 : List Nat := [
  14, 17, 11, 24, 1, 5,
  3, 28, 15, 6, 21, 10,
  23, 19, 12, 4, 26, 8,
  16, 7, 27, 20, 13, 2,
  41, 52, 31, 37, 47, 55,
  30, 40, 51, 45, 33, 48,
  44, 49, 39, 56, 34, 53,
  46, 42, 50, 36, 29, 32]

/-- S1, four rows of 16 entries, row 0 first (R82). -/
def desS1 : List (BitVec 4) := [
  14, 4, 13, 1, 2, 15, 11, 8, 3, 10, 6, 12, 5, 9, 0, 7,
  0, 15, 7, 4, 14, 2, 13, 1, 10, 6, 12, 11, 9, 5, 3, 8,
  4, 1, 14, 8, 13, 6, 2, 11, 15, 12, 9, 7, 3, 10, 5, 0,
  15, 12, 8, 2, 4, 9, 1, 7, 5, 11, 3, 14, 10, 0, 6, 13]

/-- S2, four rows of 16 entries, row 0 first (R82). -/
def desS2 : List (BitVec 4) := [
  15, 1, 8, 14, 6, 11, 3, 4, 9, 7, 2, 13, 12, 0, 5, 10,
  3, 13, 4, 7, 15, 2, 8, 14, 12, 0, 1, 10, 6, 9, 11, 5,
  0, 14, 7, 11, 10, 4, 13, 1, 5, 8, 12, 6, 9, 3, 2, 15,
  13, 8, 10, 1, 3, 15, 4, 2, 11, 6, 7, 12, 0, 5, 14, 9]

/-- S3, four rows of 16 entries, row 0 first (R82). -/
def desS3 : List (BitVec 4) := [
  10, 0, 9, 14, 6, 3, 15, 5, 1, 13, 12, 7, 11, 4, 2, 8,
  13, 7, 0, 9, 3, 4, 6, 10, 2, 8, 5, 14, 12, 11, 15, 1,
  13, 6, 4, 9, 8, 15, 3, 0, 11, 1, 2, 12, 5, 10, 14, 7,
  1, 10, 13, 0, 6, 9, 8, 7, 4, 15, 14, 3, 11, 5, 2, 12]

/-- S4, four rows of 16 entries, row 0 first (R82). -/
def desS4 : List (BitVec 4) := [
  7, 13, 14, 3, 0, 6, 9, 10, 1, 2, 8, 5, 11, 12, 4, 15,
  13, 8, 11, 5, 6, 15, 0, 3, 4, 7, 2, 12, 1, 10, 14, 9,
  10, 6, 9, 0, 12, 11, 7, 13, 15, 1, 3, 14, 5, 2, 8, 4,
  3, 15, 0, 6, 10, 1, 13, 8, 9, 4, 5, 11, 12, 7, 2, 14]

/-- S5, four rows of 16 entries, row 0 first (R82). -/
def desS5 : List (BitVec 4) := [
  2, 12, 4, 1, 7, 10, 11, 6, 8, 5, 3, 15, 13, 0, 14, 9,
  14, 11, 2, 12, 4, 7, 13, 1, 5, 0, 15, 10, 3, 9, 8, 6,
  4, 2, 1, 11, 10, 13, 7, 8, 15, 9, 12, 5, 6, 3, 0, 14,
  11, 8, 12, 7, 1, 14, 2, 13, 6, 15, 0, 9, 10, 4, 5, 3]

/-- S6, four rows of 16 entries, row 0 first (R82). -/
def desS6 : List (BitVec 4) := [
  12, 1, 10, 15, 9, 2, 6, 8, 0, 13, 3, 4, 14, 7, 5, 11,
  10, 15, 4, 2, 7, 12, 9, 5, 6, 1, 13, 14, 0, 11, 3, 8,
  9, 14, 15, 5, 2, 8, 12, 3, 7, 0, 4, 10, 1, 13, 11, 6,
  4, 3, 2, 12, 9, 5, 15, 10, 11, 14, 1, 7, 6, 0, 8, 13]

/-- S7, four rows of 16 entries, row 0 first (R82). -/
def desS7 : List (BitVec 4) := [
  4, 11, 2, 14, 15, 0, 8, 13, 3, 12, 9, 7, 5, 10, 6, 1,
  13, 0, 11, 7, 4, 9, 1, 10, 14, 3, 5, 12, 2, 15, 8, 6,
  1, 4, 11, 13, 12, 3, 7, 14, 10, 15, 6, 8, 0, 5, 9, 2,
  6, 11, 13, 8, 1, 4, 10, 7, 9, 5, 0, 15, 14, 2, 3, 12]

/-- S8, four rows of 16 entries, row 0 first (R82). -/
def desS8 : List (BitVec 4) := [
  13, 2, 8, 4, 6, 15, 11, 1, 10, 9, 3, 14, 5, 0, 12, 7,
  1, 15, 13, 8, 10, 3, 7, 4, 12, 5, 6, 11, 0, 14, 9, 2,
  7, 11, 4, 1, 9, 12, 14, 2, 0, 6, 10, 13, 15, 3, 5, 8,
  2, 1, 14, 7, 4, 10, 8, 13, 15, 12, 9, 0, 3, 5, 6, 11]

/-- The left-rotation amounts for rounds 1..16 (R81). -/
def desShifts : List Nat := [1, 1, 2, 2, 2, 2, 2, 2, 1, 2, 2, 2, 2, 2, 2, 1]

/-- Permute(T, v, w) (R74): entry j of the table is the FIPS number (1 is the most significant bit) of the input bit that
becomes output bit j. -/
def permute (m : Nat) (t : List Nat) (v : BitVec w) : BitVec m :=
  BitVec.ofNat m (t.foldl (fun acc n => 2 * acc + (v.getMsbD (n - 1)).toNat) 0)

/-- One S-box lookup: row 2·b1 + b6, column 8·b2 + 4·b3 + 2·b4 + b5 (R82). -/
def desSBox (s : List (BitVec 4)) (x : BitVec 6) : BitVec 4 :=
  let row := 2 * (x.getMsbD 0).toNat + (x.getMsbD 5).toNat
  let col := (x.extractLsb' 1 4).toNat
  s.getD (16 * row + col) 0

/-- The S-box layer of the round function: group i of 6 bits through S_i, s_1 most significant (R84). -/
def desSLayer (x : BitVec 48) : BitVec 32 :=
  desSBox desS1 (x.extractLsb' 42 6) ++ desSBox desS2 (x.extractLsb' 36 6)
    ++ desSBox desS3 (x.extractLsb' 30 6) ++ desSBox desS4 (x.extractLsb' 24 6)
    ++ desSBox desS5 (x.extractLsb' 18 6) ++ desSBox desS6 (x.extractLsb' 12 6)
    ++ desSBox desS7 (x.extractLsb' 6 6) ++ desSBox desS8 (x.extractLsb' 0 6)

/-- The round function f(R, K) (R84). -/
def desF (r : BitVec 32) (k : BitVec 48) : BitVec 32 :=
  permute 32 desP (desSLayer (permute 48 desE r ^^^ k))

/-- The subkeys of the remaining rounds, from C and D (R83). -/
def desSubkeysFrom (c d : BitVec 28) : List Nat → List (BitVec 48)
  | [] => []
  | n :: ns =>
    permute 48 desPC2 (c.rotateLeft n ++ d.rotateLeft n) :: desSubkeysFrom (c.rotateLeft n) (d.rotateLeft n) ns

/-- The DES key schedule K1..K16 of an 8-byte key (R83). -/
def desSubkeys (key : Bytes) : List (BitVec 48) :=
  let cd : BitVec 56 := permute 56 desPC1 (BitVec.ofNat 64 (beNat key))
  desSubkeysFrom (cd.extractLsb' 28 28) (cd.extractLsb' 0 28) desShifts

/-- The rounds (L, R) <- (R, L ⊕ f(R, Kn)) over a list of subkeys (R85). -/
def desRounds : List (BitVec 48) → BitVec 32 × BitVec 32 → BitVec 32 × BitVec 32
  | [], lr => lr
  | k :: ks, (l, r) => desRounds ks (r, l ^^^ desF r k)

/-- DES on a 64-bit block with the subkeys in the order given; the halves are swapped before FP (R85). -/
def desCore (ks : List (BitVec 48)) (v : BitVec 64) : BitVec 64 :=
  let u : BitVec 64 := permute 64 desIP v
  let lr := desRounds ks (u.extractLsb' 32 32, u.extractLsb' 0 32)
  permute 64 desFP (lr.2 ++ lr.1)

/-- E_DES under a schedule, on an 8-byte block read big-endian (R74, R85). -/
def desEncrypt (ks : List (BitVec 48)) (blk : Bytes) : Bytes :=
  toBE 8 (desCore ks (BitVec.ofNat 64 (beNat blk))).toNat

/-- D_DES: R85 with the subkeys in the order K16, K15, ..., K1 (R86). -/
def desDecrypt (ks : List (BitVec 48)) (blk : Bytes) : Bytes := desEncrypt ks.reverse blk

/-- E_TDES = E_{K3} ∘ D_{K2} ∘ E_{K1} (R88). -/
def tdesEncrypt (k1 k2 k3 : List (BitVec 48)) (blk : Bytes) : Bytes :=
  desEncrypt k3 (desDecrypt k2 (desEncrypt k1 blk))

/-- D_TDES = D_{K1} ∘ E_{K2} ∘ D_{K3} (R89). -/
def tdesDecrypt (k1 k2 k3 : List (BitVec 48)) (blk : Bytes) : Bytes :=
  desDecrypt k1 (desEncrypt k2 (desDecrypt k3 blk))

end Sys2Proof.Machine
end

