-- ==== Sys2Proof/Config.lean ====
section
/-! DEFINITION. The parameters of 00_scope.md R6 and the values that the spec leaves free.
A parameter with a value is the one R6 says this hardware uses (log 10). A free value is an `opaque` constant with no
body: nothing can be proved of it, so a statement holds for every value the hardware may show. -/

namespace Sys2Proof.Config

/-- `BUF_SIZE`, the default 2^18 (R6, 20_memory.md R44). -/
def bufSize : Nat := 262144

/-- The host address space is 2^19 bytes (R6 `HOST_ADDR_BITS`, 20_memory.md R43). -/
def hostSpace : Nat := 524288

/-- The host offset at which the BUF window starts (20_memory.md R43). -/
def bufWindow : Nat := 262144

/-- The register window is host offsets 0x000 to 0x0FF (10_state.md R16). -/
def regWindow : Nat := 256

/-- `CHUNK_SIZE`, the host's convention for streams (R6, 70_reset_and_hazards.md R173). -/
def chunkSize : Nat := 65536

/-- `LOKI_POLY`, the low byte of the GF(2^8) modulus (R6). -/
def lokiPoly : Byte := 0x1B

/-- `LOKI_DELTA` (R6); also the increment of SplitMix64 (43_modes.md R133). -/
def lokiDelta : BitVec 64 := 0x9E3779B97F4A7C15

/-- `LOKI_NUM_SUBKEYS` (R6). -/
def lokiNumSubkeys : Nat := 48

/-- `LOKI_NUM_ROUNDS` (R6). -/
def lokiNumRounds : Nat := 16

/-- `MODEXP_MAX_BYTES` (R6). -/
def modexpMaxBytes : Nat := 256

/-- `CORE_BASE`, left OPEN by 20_memory.md R51: the platform's base address of the core. -/
opaque coreBase : Nat

/-- What BUF byte `addr` holds after the hardware reset number `gen` until it is written: "every byte is a free value"
(70_reset_and_hazards.md R170, U16; log 4). -/
opaque bufReset (gen addr : Nat) : Byte

/-- What the `n`-th free draw answers when it is a host read of BUF while BUSY = 1 (20_memory.md R57, U17; log 5). -/
opaque busyRead (n : Nat) : Word

/-- The `n`-th free draw when it is a random byte (60_exceptions.md R165, U5; log 6). -/
opaque drawByte (n : Nat) : Byte

/-- The `n`-th free draw when it is a private exponent: 256 free bits, from which `Machine.drawExponent` makes a value in
the interval of 44_dh_modexp.md R141 (U6; log 6). -/
opaque drawExponentBits (n : Nat) : BitVec 256

/-- Which agent moves at the `n`-th step at which both could (00_scope.md R13): `true` for the engine (log 1). -/
opaque engineTurn (n : Nat) : Bool

end Sys2Proof.Config
end

