-- ==== Sys2Proof/Machine/Loki.lean ====
section
/-! DEFINITION. LOKI97_128 in the spec's own variant, verbatim (40_block_ciphers.md R90 to R99, 90_conflicts.md C8). -/

namespace Sys2Proof.Machine

/-- One doubling: a <- (a << 1) & 0xFF, and ⊕ LOKI_POLY if the bit shifted out was 1 (R91). -/
def gdouble (a : Nat) : Nat :=
  if a < 128 then 2 * a else (2 * a - 256) ^^^ Config.lokiPoly.toNat

/-- `n` steps of shift-and-XOR multiplication in GF(2^8), modulo 0x100 | LOKI_POLY, on byte values (R91). -/
def gmulSteps : Nat → Nat → Nat → Nat → Nat
  | 0, _, _, r => r
  | n + 1, a, b, r => gmulSteps n (gdouble a) (b / 2) (if b % 2 = 1 then r ^^^ a else r)

/-- gmul(a, b) (R91). -/
def gmul (a b : Byte) : Byte := BitVec.ofNat 8 (gmulSteps 8 a.toNat b.toNat 0)

/-- Square-and-multiply over `n` bits of the exponent (R91). -/
def gpowSteps : Nat → Byte → Nat → Byte → Byte
  | 0, _, _, r => r
  | n + 1, a, e, r => gpowSteps n (gmul a a) (e / 2) (if e % 2 = 1 then gmul r a else r)

/-- gpow(a, e) for an 8-bit exponent, gpow(a, 0) = 1 (R91). -/
def gpow (a : Byte) (e : Nat) : Byte := gpowSteps 8 a e 1#8

/-- S1[x] = x^3 (R92). -/
def lokiS1 (x : Byte) : Byte := gmul (gmul x x) x

/-- S2[x] = x^254, the inverse with S2[0] = 0 (R92). -/
def lokiS2 (x : Byte) : Byte := gpow x 254

/-- The bit permutation table P (R93): bit i of the input goes to bit P[i] of the result. -/
def lokiP : List Nat := [
  56, 48, 40, 32, 24, 16, 8, 0, 57, 49, 41, 33, 25, 17, 9, 1,
  58, 50, 42, 34, 26, 18, 10, 2, 59, 51, 43, 35, 27, 19, 11, 3,
  60, 52, 44, 36, 28, 20, 12, 4, 61, 53, 45, 37, 29, 21, 13, 5,
  62, 54, 46, 38, 30, 22, 14, 6, 63, 55, 47, 39, 31, 23, 15, 7]

/-- The sum of ((v >> i) & 1) << P[i] over the entries of a table that starts at bit `i` (R93). -/
def lokiPermFrom (v : BitVec 64) : Nat → List Nat → BitVec 64
  | _, [] => 0#64
  | i, p :: ps => ((BitVec.ofBool (v.getLsbD i)).setWidth 64 <<< p) ||| lokiPermFrom v (i + 1) ps

/-- Perm(v) (R93). -/
def lokiPerm (v : BitVec 64) : BitVec 64 := lokiPermFrom v 0 lokiP

/-- The S-box layer, pattern S1 S2 S1 S2 S2 S1 S2 S1 from the most significant byte (R94). -/
def lokiSLayer (v : BitVec 64) : BitVec 64 :=
  lokiS1 (v.extractLsb' 56 8) ++ lokiS2 (v.extractLsb' 48 8) ++ lokiS1 (v.extractLsb' 40 8)
    ++ lokiS2 (v.extractLsb' 32 8) ++ lokiS2 (v.extractLsb' 24 8) ++ lokiS1 (v.extractLsb' 16 8)
    ++ lokiS2 (v.extractLsb' 8 8) ++ lokiS1 (v.extractLsb' 0 8)

/-- The round function F(A, B) (R94). -/
def lokiF (a b : BitVec 64) : BitVec 64 := lokiPerm (lokiSLayer (a ^^^ b))

/-- kVal of subkey i: eight key bytes from offset (i·8) mod n, wrapping, read big-endian (R95). -/
def lokiKVal (key : Bytes) (i : Nat) : BitVec 64 :=
  let n := key.length
  let off := (i * 8) % n
  BitVec.ofNat 64 (beNat ((List.range 8).map fun j => key.getD ((off + j) % n) 0#8))

/-- K[i] = F(kVal ⊕ (DELTA·(i+1) mod 2^64), kVal) (R95). The key cancels (R99); the rule is kept as written. -/
def lokiSubkey (key : Bytes) (i : Nat) : BitVec 64 :=
  let kVal := lokiKVal key i
  lokiF (kVal ^^^ (Config.lokiDelta * BitVec.ofNat 64 (i + 1))) kVal

/-- The LOKI97 key schedule K[0..47] (R95). -/
def lokiSubkeys (key : Bytes) : List (BitVec 64) := (List.range Config.lokiNumSubkeys).map (lokiSubkey key)

/-- One encryption round r on (L, R) (R97). -/
def lokiRound (ks : List (BitVec 64)) (lr : BitVec 64 × BitVec 64) (r : Nat) : BitVec 64 × BitVec 64 :=
  (lr.2 + ks.getD (3 * r + 2) 0, lr.1 ^^^ lokiF (lr.2 + ks.getD (3 * r) 0) (ks.getD (3 * r + 1) 0))

/-- One decryption round r on (L, R) (R98). -/
def lokiUnround (ks : List (BitVec 64)) (lr : BitVec 64 × BitVec 64) (r : Nat) : BitVec 64 × BitVec 64 :=
  let prevR := lr.1 - ks.getD (3 * r + 2) 0
  (lr.2 ^^^ lokiF (prevR + ks.getD (3 * r) 0) (ks.getD (3 * r + 1) 0), prevR)

/-- The first half of a 16-byte block as a 64-bit word (R96). -/
def lokiHalf0 (blk : Bytes) : BitVec 64 := BitVec.ofNat 64 (beNat (blk.take 8))

/-- The second half of a 16-byte block as a 64-bit word (R96). -/
def lokiHalf1 (blk : Bytes) : BitVec 64 := BitVec.ofNat 64 (beNat (blk.drop 8))

/-- E_LOKI: sixteen rounds, output R ‖ L (R97). -/
def lokiEncrypt (ks : List (BitVec 64)) (blk : Bytes) : Bytes :=
  let lr := (List.range Config.lokiNumRounds).foldl (lokiRound ks) (lokiHalf0 blk, lokiHalf1 blk)
  toBE 8 lr.2.toNat ++ toBE 8 lr.1.toNat

/-- D_LOKI: the rounds inverted in reverse order, output L ‖ R (R98). -/
def lokiDecrypt (ks : List (BitVec 64)) (blk : Bytes) : Bytes :=
  let lr := (List.range Config.lokiNumRounds).reverse.foldl (lokiUnround ks) (lokiHalf1 blk, lokiHalf0 blk)
  toBE 8 lr.1.toNat ++ toBE 8 lr.2.toNat

end Sys2Proof.Machine
end

