-- ==== Sys2Proof/Machine/State.lean ====
section
/-! DEFINITION. The state of the core as plain data (10_state.md), the state after reset (70_reset_and_hazards.md R170),
and the reasons a step can stop. -/

namespace Sys2Proof.Machine

/-- The block ciphers CTRL.ALG can select (10_state.md R20). -/
inductive Alg where
  | des
  | tdes
  | loki
deriving DecidableEq, Repr

/-- The modes CTRL.MODE can select (10_state.md R21). -/
inductive Mode where
  | ecb
  | cbc
  | pcbc
  | cfb
  | ofb
  | ctr
  | randomDelta
deriving DecidableEq, Repr

/-- The padding schemes CTRL.PAD can select (10_state.md R22). -/
inductive Scheme where
  | zeros
  | pkcs7
  | ansix923
  | iso10126
deriving DecidableEq, Repr

/-- The round-key schedule of 10_state.md R34: sixteen 48-bit DES subkeys, three such sets, or 48 64-bit LOKI97 subkeys. -/
inductive KeySchedule where
  | des (ks : List (BitVec 48))
  | tdes (k1 k2 k3 : List (BitVec 48))
  | loki (ks : List (BitVec 64))
deriving DecidableEq, Repr

/-- The errors a command can end in (60_exceptions.md R156). -/
inductive ErrorKind where
  | illegalCommand
  | invalidKeySize
  | invalidIv
  | invalidBlockSize
  | unsupportedMode
  | unsupportedPadding
  | unsupportedAlgorithm
  | lengthError
  | keySizeTooLarge
  | stateError
  | addressError
  | invalidGroup
deriving DecidableEq, Repr

/-- The registers that a command's snapshot takes: CTRL and the operand registers (10_state.md R19, R26 to R30). -/
structure Operands where
  ctrl : Word
  src : Word
  len : Word
  dst : Word
  src2 : Word
  len2 : Word
deriving DecidableEq, Repr

/-- INFLIGHT when it is not none: the issued word and its operand snapshot (10_state.md R40, 20_memory.md R53). -/
structure InFlight where
  word : Word
  ops : Operands
deriving DecidableEq, Repr

/-- The width of a host access (20_memory.md R47); `other` is any width the bus does not define (R48). -/
inductive Width where
  | w8
  | w16
  | w32
  | other (bits : Nat)
deriving DecidableEq, Repr

/-- What the host does to the core in one host step (00_scope.md R13). Offsets are relative to CORE_BASE (20_memory.md R51). -/
inductive HostOp where
  /-- a bus read of a width at a host offset -/
  | read (w : Width) (off : Nat)
  /-- a bus write; a write narrower than 32 bits carries the low bits of `v` (20_memory.md R45) -/
  | write (w : Width) (off : Nat) (v : Word)
  /-- poll STATUS until BUSY = 0 (30_encoding.md R71 `wait`) -/
  | wait
  /-- assert the reset input (70_reset_and_hazards.md R169) -/
  | reset
deriving DecidableEq, Repr

/-- What a host read returns: exactly the bits of its width, with no extension (45_system.md R153). -/
inductive Reply where
  | b8 (v : BitVec 8)
  | b16 (v : BitVec 16)
  | b32 (v : BitVec 32)
deriving DecidableEq, Repr

/-- BUF's bytes as (BUF offset, byte) pairs. An unlisted offset holds no value that anything has written (log 4). -/
abbrev Memory := List Host.Cell

/-- The canonical form of a memory: offsets strictly rising. No entry can equal what an unlisted offset holds, because an
unlisted offset holds no written value. -/
def Memory.wf : Memory → Bool
  | [] => true
  | [_] => true
  | c :: d :: m => decide (c.1 < d.1) && Memory.wf (d :: m)

/-- The core's whole state. The fields from `host` on are the model's own (INVENTORY.md). -/
structure State where
  /-- CTRL, SRC, LEN, DST, SRC2, LEN2 -/
  regs : Operands
  /-- OUTLEN (R31) -/
  outlen : Word
  /-- ERRCODE bits [7:0] (R25) -/
  errcode : Byte
  /-- STATUS.DONE (R24) -/
  done : Bool
  /-- STATUS.ERR (R24) -/
  err : Bool
  /-- STATUS.HAZ (R24) -/
  haz : Bool
  /-- INFLIGHT (R40) -/
  inflight : Option InFlight
  /-- KEYED (R34) -/
  keyed : Bool
  /-- LALG (R34) -/
  lalg : Alg
  /-- KEY (R34) -/
  key : Bytes
  /-- the round-key schedule (R34) -/
  sched : KeySchedule
  /-- CTXV (R35) -/
  ctxv : Bool
  /-- LMODE (R35) -/
  lmode : Mode
  /-- LPAD (R35) -/
  lpad : Scheme
  /-- LCTRLE (R35) -/
  lctrle : Bool
  /-- IV, absent or B bytes (R35) -/
  iv : Option Bytes
  /-- OPACT (R36) -/
  opact : Bool
  /-- OPDIR (R36): `true` is decrypt -/
  opdir : Bool
  /-- FB (R36) -/
  fb : Bytes
  /-- PP (R36) -/
  pp : Bytes
  /-- PCR (R36) -/
  pcr : Bytes
  /-- BLKIDX (R36) -/
  blkidx : BitVec 64
  /-- RC4K (R37) -/
  rc4k : Bool
  /-- S (R37) -/
  rcS : Bytes
  /-- I (R37) -/
  rcI : Byte
  /-- J (R37) -/
  rcJ : Byte
  /-- DHV (R38) -/
  dhv : Bool
  /-- DHP (R38) -/
  dhp : Nat
  /-- DHG (R38) -/
  dhg : Nat
  /-- PLEN (R38) -/
  plen : Nat
  /-- DHX (R38) -/
  dhx : BitVec 256
  /-- DHY (R38) -/
  dhy : Nat
  /-- SECV (R38) -/
  secv : Bool
  /-- SREG (R38) -/
  sreg : Nat
  /-- BUF (20_memory.md R44) -/
  mem : Memory
  /-- the host's pending accesses, first to come first (log 1) -/
  host : List HostOp
  /-- what host reads have returned, newest first (log 11) -/
  replies : List Reply
  /-- how many free draws have been answered (log 6) -/
  draws : Nat
  /-- how many free arbitrations have been made (log 1) -/
  turns : Nat
  /-- how many hardware resets BUF has seen since the start (log 4) -/
  bufGen : Nat
deriving DecidableEq, Repr

/-- Why a step stops. Only a host access stops: "A read returns no data; in the model it is a fault of the host access"
(20_memory.md R48, U19). No command raises one. -/
inductive Fault where
  /-- A host access to an offset outside the register window and BUF. Raised by the host port. Safe: the core's state does
  not change on the hardware, and the model only stops. -/
  | busUnmapped (off : Nat)
  /-- A host access not aligned as R47 asks, or narrower than 32 bits in the register window. Raised by the host port. Safe,
  as above. -/
  | busMisaligned (off : Nat)
  /-- A host access of a width the bus does not define. Raised by the host port. Safe, as above. -/
  | busWidth (bits : Nat)
deriving DecidableEq, Repr

/-- Why a step refuses. -/
inductive Refusal where
  /-- An instruction the model gives no meaning to. Raised by an arm of `exec` that has none; in this model none does.
  Safe: nothing is claimed of it. -/
  | notModelled (mnemonic : String)
deriving DecidableEq, Repr

/-- A zero feedback register, 0^16 (R36). -/
def zeroBlock : Bytes := List.replicate 16 0#8

/-- The state right after reset (70_reset_and_hazards.md R170). BUF is unspecified: nothing is listed (log 4). The model's
own fields start empty or at 0 (log 1, log 6). -/
def State.reset : State where
  regs := ⟨0, 0, 0, 0, 0, 0⟩
  outlen := 0
  errcode := 0
  done := false
  err := false
  haz := false
  inflight := none
  keyed := false
  lalg := .des
  key := []
  sched := .des (List.replicate 16 0#48)
  ctxv := false
  lmode := .ecb
  lpad := .zeros
  lctrle := false
  iv := none
  opact := false
  opdir := false
  fb := zeroBlock
  pp := zeroBlock
  pcr := zeroBlock
  blkidx := 0
  rc4k := false
  rcS := List.replicate 256 0#8
  rcI := 0
  rcJ := 0
  dhv := false
  dhp := 0
  dhg := 0
  plen := 0
  dhx := 0
  dhy := 0
  secv := false
  sreg := 0
  mem := []
  host := []
  replies := []
  draws := 0
  turns := 0
  bufGen := 0

end Sys2Proof.Machine
end

