-- ==== Sys2Proof/Machine/Operands.lean ====
section
/-! DEFINITION. Every operand form of the command set (30_encoding.md R67): the snapshot, its fields, and the codes of CTRL
(10_state.md R19 to R22). -/

namespace Sys2Proof.Machine

/-- The operands a command sees: the snapshot taken at issue (20_memory.md R54). With no command in flight, which no step
meets, the registers themselves (log 3). -/
def State.operands (s : State) : Operands :=
  match s.inflight with
  | some c => c.ops
  | none => s.regs

/-- CTRL.ALG, bits [2:0] (R19). -/
def Operands.algCode (o : Operands) : BitVec 3 := o.ctrl.extractLsb' 0 3

/-- CTRL.MODE, bits [6:4] (R19). -/
def Operands.modeCode (o : Operands) : BitVec 3 := o.ctrl.extractLsb' 4 3

/-- CTRL.PAD, bits [10:8] (R19). -/
def Operands.padCode (o : Operands) : BitVec 3 := o.ctrl.extractLsb' 8 3

/-- CTRL.IVP, bit [11] (R19). -/
def Operands.ivp (o : Operands) : Bool := o.ctrl.getLsbD 11

/-- CTRL.CTRLE, bit [12] (R19). -/
def Operands.ctrle (o : Operands) : Bool := o.ctrl.getLsbD 12

/-- CTRL.KDFLE, bit [13] (R19). -/
def Operands.kdfle (o : Operands) : Bool := o.ctrl.getLsbD 13

/-- CTRL.IRQEN, bit [16] (R19). -/
def Operands.irqen (o : Operands) : Bool := o.ctrl.getLsbD 16

/-- SRC as a BUF byte offset: 32-bit unsigned, unscaled (R67). -/
def Operands.srcN (o : Operands) : Nat := o.src.toNat

/-- LEN as a byte length (R67). -/
def Operands.lenN (o : Operands) : Nat := o.len.toNat

/-- DST as a BUF byte offset (R67). -/
def Operands.dstN (o : Operands) : Nat := o.dst.toNat

/-- SRC2 as a BUF byte offset (R67). -/
def Operands.src2N (o : Operands) : Nat := o.src2.toNat

/-- LEN2 as a byte length (R67). -/
def Operands.len2N (o : Operands) : Nat := o.len2.toNat

/-- The algorithm of a CTRL.ALG code; 3 to 7 are refused (10_state.md R20). -/
def algOf (c : BitVec 3) : Option Alg :=
  match c.toNat with
  | 0 => some .des
  | 1 => some .tdes
  | 2 => some .loki
  | _ => none

/-- The mode of a CTRL.MODE code; 7 is refused (10_state.md R21). -/
def modeOf (c : BitVec 3) : Option Mode :=
  match c.toNat with
  | 0 => some .ecb
  | 1 => some .cbc
  | 2 => some .pcbc
  | 3 => some .cfb
  | 4 => some .ofb
  | 5 => some .ctr
  | 6 => some .randomDelta
  | _ => none

/-- The scheme of a CTRL.PAD code; 4 to 7 are refused (10_state.md R22). -/
def schemeOf (c : BitVec 3) : Option Scheme :=
  match c.toNat with
  | 0 => some .zeros
  | 1 => some .pkcs7
  | 2 => some .ansix923
  | 3 => some .iso10126
  | _ => none

/-- Block size B of a cipher (10_state.md R20, R34). -/
def Alg.blockSize : Alg → Nat
  | .des => 8
  | .tdes => 8
  | .loki => 16

/-- The legal key lengths of a cipher (10_state.md R20). -/
def Alg.legalKeyLength : Alg → Nat → Bool
  | .des, n => n == 8
  | .tdes, n => n == 24
  | .loki, n => n == 16 || n == 24 || n == 32

/-- The block modes of 43_modes.md R120; the others are the stream modes. -/
def Mode.isBlock : Mode → Bool
  | .ecb => true
  | .cbc => true
  | .pcbc => true
  | .cfb => false
  | .ofb => false
  | .ctr => false
  | .randomDelta => true

/-- B, the block size of the keyed cipher (10_state.md R34). -/
def State.blockSize (s : State) : Nat := s.lalg.blockSize

end Sys2Proof.Machine
end

