-- ==== Sys2Proof/Machine/Flags.lean ====
section
/-! DEFINITION. The flags: the STATUS word and its W1C bits (10_state.md R24, R33), the error codes (60_exceptions.md R156)
and the interrupt line (R163). The core has no arithmetic condition codes (R33). -/

namespace Sys2Proof.Machine

/-- STATUS.BUSY: "1 exactly when INFLIGHT ≠ none" (10_state.md R40). -/
def State.busy (s : State) : Bool := s.inflight.isSome

/-- STATUS.BSZ: block size of the keyed cipher, 0 when KEYED = 0 (R24, R33). -/
def bszField (s : State) : BitVec 8 := if s.keyed then BitVec.ofNat 8 s.blockSize else 0#8

/-- STATUS as a host read returns it (R24). -/
def statusWord (s : State) : Word :=
  0#8 ++ bszField s ++ 0#5
    ++ BitVec.ofBool s.secv ++ BitVec.ofBool s.dhv ++ BitVec.ofBool s.rc4k ++ BitVec.ofBool s.opdir
    ++ BitVec.ofBool s.opact ++ BitVec.ofBool s.ctxv ++ BitVec.ofBool s.keyed ++ BitVec.ofBool s.haz
    ++ BitVec.ofBool s.err ++ BitVec.ofBool s.done ++ BitVec.ofBool s.busy

/-- A host write to STATUS while BUSY = 0: DONE, ERR and HAZ are cleared where the word has a 1, nothing else changes
(R24). It is also how the host acknowledges an error; nothing is restored (60_exceptions.md R162). -/
def ackStatus (v : Word) (s : State) : State :=
  { s with done := s.done && !v.getLsbD 1, err := s.err && !v.getLsbD 2, haz := s.haz && !v.getLsbD 3 }

/-- The code of an error (60_exceptions.md R156). -/
def errorCode : ErrorKind → Byte
  | .illegalCommand => 0x01
  | .invalidKeySize => 0x02
  | .invalidIv => 0x03
  | .invalidBlockSize => 0x04
  | .unsupportedMode => 0x05
  | .unsupportedPadding => 0x06
  | .unsupportedAlgorithm => 0x07
  | .lengthError => 0x08
  | .keySizeTooLarge => 0x09
  | .stateError => 0x0A
  | .addressError => 0x0B
  | .invalidGroup => 0x0C

/-- The interrupt output: CTRL.IRQEN ∧ STATUS.DONE, a level (60_exceptions.md R163). -/
def irq (s : State) : Bool := s.regs.irqen && s.done

end Sys2Proof.Machine
end

