-- ==== Sys2Proof/Machine/Ops.lean ====
section
/-! DEFINITION. The shared operations of the engine: BUF bytes, range checks, issue, completion, raising an error, the free
draws. -/

namespace Sys2Proof.Machine

/-! BUF -/

/-- What has been written at a BUF offset, or none. -/
def memGet? : Memory → Nat → Option Byte
  | [], _ => none
  | c :: m, a => if c.1 = a then some c.2 else memGet? m a

/-- A byte string laid out from an offset upwards. -/
def memCells : Nat → Bytes → Memory
  | _, [] => []
  | a, b :: bs => (a, b) :: memCells (a + 1) bs

/-- The memory with a byte string stored at `a .. a + bs.length`; every other offset keeps what it holds. -/
def memWrite (m : Memory) (a : Nat) (bs : Bytes) : Memory :=
  m.filter (fun c => decide (c.1 < a)) ++ memCells a bs ++ m.filter (fun c => decide (a + bs.length ≤ c.1))

/-- BUF byte `a`: what was written last, or the free value it has held since the last hardware reset
(20_memory.md R58, 70_reset_and_hazards.md R170; log 4). -/
def bufByte (s : State) (a : Nat) : Byte := (memGet? s.mem a).getD (Config.bufReset s.bufGen a)

/-- MemRead(addr, n) (00_scope.md R9). -/
def bufRead (s : State) (a : Nat) : Nat → Bytes
  | 0 => []
  | n + 1 => bufByte s a :: bufRead s (a + 1) n

/-- MemWrite(addr, n, v) with n the length of v (00_scope.md R9). -/
def bufWrite (s : State) (a : Nat) (v : Bytes) : State := { s with mem := memWrite s.mem a v }

/-- The range check of 20_memory.md R50: a + n ≤ BUF_SIZE in unbounded integers. -/
def inBuf (a n : Nat) : Bool := decide (a + n ≤ Config.bufSize)

/-! Issue, completion and errors -/

/-- Issue of a command word (20_memory.md R53). "No other state changes at issue." -/
def issue (w : Word) (s : State) : State :=
  { s with inflight := some ⟨w, s.regs⟩, done := false, err := false, errcode := 0 }

/-- Completion without an error, with `n` bytes of output (20_memory.md R55). -/
def complete (n : Nat) (s : State) : State :=
  { s with outlen := BitVec.ofNat 32 n, errcode := 0, err := false, done := true, inflight := none }

/-- `raise E`: what a failed command writes and nothing else (60_exceptions.md R159, R160). `endsOp` says that the word
decoded as ENC, DEC or CTX, whose failure also ends the operation. -/
def raiseError (endsOp : Bool) (e : ErrorKind) (s : State) : State :=
  { s with
    outlen := 0, errcode := errorCode e, err := true, done := true, inflight := none,
    opact := s.opact && !endsOp }

/-- The first failing check, in the order listed (60_exceptions.md R161). -/
def firstError : List (Bool × ErrorKind) → Option ErrorKind
  | [] => none
  | (bad, e) :: cs => if bad then some e else firstError cs

/-- A command that runs its checks and then has its effect: it completes with every write of its rule or raises the first
error and performs none (00_scope.md R11, 60_exceptions.md R161). -/
def afterChecks (endsOp : Bool) (checks : List (Bool × ErrorKind)) (ok s : State) : State :=
  match firstError checks with
  | some e => raiseError endsOp e s
  | none => ok

/-! The random source (60_exceptions.md R165) -/

/-- draw(n): n free bytes (log 6). -/
def drawBytes (g : Nat) : Nat → Bytes
  | 0 => []
  | n + 1 => Config.drawByte g :: drawBytes (g + 1) n

/-- A draw of an integer in [1, 2^255 − 1] (44_dh_modexp.md R141): the free bits reduced into the interval (log 6). -/
def drawExponent (g : Nat) : BitVec 256 :=
  BitVec.ofNat 256 ((Config.drawExponentBits g).toNat % (2 ^ 255 - 1) + 1)

end Sys2Proof.Machine
end

