-- ==== Sys2Proof/Machine/BlockCipher.lean ====
section
/-! DEFINITION. The keyed block cipher, its functions E and D, and the commands KEY, ENCB and DECB
(40_block_ciphers.md R73, R100 to R102). -/

namespace Sys2Proof.Machine

/-- The round-key schedule of (LALG, KEY) (10_state.md R34; R83, R87, R95). -/
def scheduleOf (a : Alg) (key : Bytes) : KeySchedule :=
  match a with
  | .des => .des (desSubkeys key)
  | .tdes => .tdes (desSubkeys (key.take 8)) (desSubkeys ((key.drop 8).take 8)) (desSubkeys ((key.drop 16).take 8))
  | .loki => .loki (lokiSubkeys key)

/-- E(x): encryption of one block. It reads only the schedule and its input (R73; R85, R88, R97). -/
def encryptBlock (k : KeySchedule) (blk : Bytes) : Bytes :=
  match k with
  | .des ks => desEncrypt ks blk
  | .tdes k1 k2 k3 => tdesEncrypt k1 k2 k3 blk
  | .loki ks => lokiEncrypt ks blk

/-- D(x): decryption of one block (R73; R86, R89, R98). -/
def decryptBlock (k : KeySchedule) (blk : Bytes) : Bytes :=
  match k with
  | .des ks => desDecrypt ks blk
  | .tdes k1 k2 k3 => tdesDecrypt k1 k2 k3 blk
  | .loki ks => lokiDecrypt ks blk

/-- KEY once its algorithm is known to be legal (R100). -/
def keyWith (a : Alg) (s : State) : State :=
  let o := s.operands
  let key := bufRead s o.srcN o.lenN
  afterChecks false
    [(!a.legalKeyLength o.lenN, .invalidKeySize),
     (!inBuf o.srcN o.lenN, .addressError)]
    (complete 0
      { s with key := key, lalg := a, keyed := true, sched := scheduleOf a key, ctxv := false, iv := none, opact := false })
    s

/-- KEY: load a block-cipher key (40_block_ciphers.md R100). -/
def execKey (s : State) : Host.Outcome State Fault Refusal :=
  .next (match algOf s.operands.algCode with
    | none => raiseError false .unsupportedAlgorithm s
    | some a => keyWith a s)

/-- The checks and the store that ENCB and DECB share; `f` is the block function (R101, R102). -/
def oneBlock (f : KeySchedule → Bytes → Bytes) (s : State) : State :=
  let o := s.operands
  let b := s.blockSize
  afterChecks false
    [(!s.keyed, .stateError),
     (decide (o.lenN ≠ b), .invalidBlockSize),
     (!inBuf o.srcN b || !inBuf o.dstN b, .addressError)]
    (complete b (bufWrite s o.dstN (f s.sched (bufRead s o.srcN b))))
    s

/-- ENCB: encrypt one block (40_block_ciphers.md R101). -/
def execEncb (s : State) : Host.Outcome State Fault Refusal := .next (oneBlock encryptBlock s)

/-- DECB: decrypt one block (40_block_ciphers.md R102). -/
def execDecb (s : State) : Host.Outcome State Fault Refusal := .next (oneBlock decryptBlock s)

end Sys2Proof.Machine
end

