-- ==== Sys2Proof/Machine/Sha256.lean ====
section
/-! DEFINITION. SHA-256 and the minimal two's-complement encoding (44_dh_modexp.md R146 to R150). -/

namespace Sys2Proof.Machine

/-- TC(s): toBE_n(s) with n the least integer such that s < 2^(8n − 1); one byte for 0 (R146). -/
def tcBytes (s : Nat) : Bytes := toBE ((Nat.log2 s + 9) / 8) s

/-- The eight hash words H0..H7, also the working words a..h (R147, R149). -/
structure ShaState where
  a : Word
  b : Word
  c : Word
  d : Word
  e : Word
  f : Word
  g : Word
  h : Word
deriving DecidableEq, Repr

/-- The initial hash value (R147). -/
def shaInit : ShaState :=
  ⟨0x6a09e667, 0xbb67ae85, 0x3c6ef372, 0xa54ff53a, 0x510e527f, 0x9b05688c, 0x1f83d9ab, 0x5be0cd19⟩

/-- The number z of zero bytes that makes the padded length a multiple of 64 (R148). -/
def shaZeros (n : Nat) : Nat := (64 - (n + 9) % 64) % 64

/-- The padded message m ‖ 80 ‖ 0^z ‖ toBE_8(8·len) (R148). -/
def shaPad (m : Bytes) : Bytes := m ++ [0x80#8] ++ zeroBytes (shaZeros m.length) ++ toBE 8 (8 * m.length)

/-- The big-endian 32-bit words of a byte string; a 64-byte block has 16 (R148). -/
def shaWords (bs : Bytes) : List Word := (blocksOf 4 bs).map fun b => BitVec.ofNat 32 (beNat b)

/-- The eight rows of the table of K, each as one 256-bit numeral: its eight words in the order of the row (R147). -/
def shaKRows : List Nat :=
  [0x428a2f9871374491b5c0fbcfe9b5dba53956c25b59f111f1923f82a4ab1c5ed5,
    0xd807aa9812835b01243185be550c7dc372be5d7480deb1fe9bdc06a7c19bf174,
    0xe49b69c1efbe47860fc19dc6240ca1cc2de92c6f4a7484aa5cb0a9dc76f988da,
    0x983e5152a831c66db00327c8bf597fc7c6e00bf3d5a7914706ca635114292967,
    0x27b70a852e1b21384d2c6dfc53380d13650a7354766a0abb81c2c92e92722c85,
    0xa2bfe8a1a81a664bc24b8b70c76c51a3d192e819d6990624f40e3585106aa070,
    0x19a4c1161e376c082748774c34b0bcb5391c0cb34ed8aa4a5b9cca4f682e6ff3,
    0x748f82ee78a5636f84c878148cc7020890befffaa4506cebbef9a3f7c67178f2]

/-- The round constants K[0..63] (R147). -/
def shaK : List Word := shaKRows.flatMap fun row => shaWords (toBE 32 row)

/-- σ: two rotations and a shift (R149). -/
def shaSigma (r1 r2 sh : Nat) (x : Word) : Word := x.rotateRight r1 ^^^ x.rotateRight r2 ^^^ (x >>> sh)

/-- Σ: three rotations (R149). -/
def shaSum (r1 r2 r3 : Nat) (x : Word) : Word := x.rotateRight r1 ^^^ x.rotateRight r2 ^^^ x.rotateRight r3

/-- Ch(e, f, g) (R149). -/
def shaCh (e f g : Word) : Word := (e &&& f) ^^^ (~~~e &&& g)

/-- Maj(a, b, c) (R149). -/
def shaMaj (a b c : Word) : Word := (a &&& b) ^^^ (a &&& c) ^^^ (b &&& c)

/-- `n` further words of the message schedule; `w` holds the words so far, the newest first, so that W[t−k] is entry k − 1
(R149). -/
def shaExtend : Nat → List Word → List Word
  | 0, w => w
  | n + 1, w =>
    shaExtend n ((w.getD 15 0 + shaSigma 7 18 3 (w.getD 14 0) + w.getD 6 0 + shaSigma 17 19 10 (w.getD 1 0)) :: w)

/-- W[0..63] of a block (R149). -/
def shaSchedule (blk : Bytes) : List Word := (shaExtend 48 (shaWords blk).reverse).reverse

/-- One round on a..h with K[t] and W[t] (R149). -/
def shaRound (s : ShaState) (kw : Word × Word) : ShaState :=
  let t1 := s.h + shaSum 6 11 25 s.e + shaCh s.e s.f s.g + kw.1 + kw.2
  let t2 := shaSum 2 13 22 s.a + shaMaj s.a s.b s.c
  ⟨t1 + t2, s.a, s.b, s.c, s.d + t1, s.e, s.f, s.g⟩

/-- The compression of one block into H0..H7 (R149). -/
def shaCompress (s : ShaState) (blk : Bytes) : ShaState :=
  let r := (shaK.zip (shaSchedule blk)).foldl shaRound s
  ⟨s.a + r.a, s.b + r.b, s.c + r.c, s.d + r.d, s.e + r.e, s.f + r.f, s.g + r.g, s.h + r.h⟩

/-- SHA256(m), 32 bytes (R150). -/
def sha256 (m : Bytes) : Bytes :=
  let s := (blocksOf 64 (shaPad m)).foldl shaCompress shaInit
  toBE 4 s.a.toNat ++ toBE 4 s.b.toNat ++ toBE 4 s.c.toNat ++ toBE 4 s.d.toNat
    ++ toBE 4 s.e.toNat ++ toBE 4 s.f.toNat ++ toBE 4 s.g.toNat ++ toBE 4 s.h.toNat

end Sys2Proof.Machine
end

