-- ==== Sys2Proof/Machine/Dh.lean ====
section
/-! DEFINITION. The modular-exponentiation engine and the commands DHI, DHR, DHS and DHK (44_dh_modexp.md R138 to R146). -/

namespace Sys2Proof.Machine

/-- `n` bits of square-and-multiply, from the least significant bit of the exponent. -/
def modExpSteps : Nat → Nat → Nat → Nat → Nat → Nat
  | 0, _, _, _, acc => acc
  | n + 1, b, e, m, acc => modExpSteps n (b * b % m) (e / 2) m (if e % 2 = 1 then acc * b % m else acc)

/-- ModExp(b, e, m) = b^e mod m, exact (R139). -/
def modExp (b e m : Nat) : Nat := modExpSteps (Nat.log2 e + 1) (b % m) e m (1 % m)

/-- The 1536-bit prime p of the fixed group (R140). -/
def group5Prime : Nat :=
  0xFFFFFFFFFFFFFFFFC90FDAA22168C234C4C6628B80DC1CD129024E088A67CC74020BBEA63B139B22514A08798E3404DDEF9519B3CD3A431B302B0A6DF25F14374FE1356D6D51C245E485B576625E7EC6F44C42E9A637ED6B0BFF5CB6F406B7EDEE386BFB5A899FA5AE9F24117C4B1FE649286651ECE45B3DC2007CB8A163BF0598DA48361C55D39A69163FA8FD24CF5F83655D23DCA3AD961C62F356208552BB9ED529077096966D670C354E4ABC9804F1746C08CA237327FFFFFFFFFFFFFFFF

/-- The generator g of the fixed group (R140). -/
def group5Gen : Nat := 2

/-- PLEN of the fixed group: p is 192 bytes long (R140, R142). -/
def group5Len : Nat := 192

/-- The writes of a new participant with group (p, g), width `plen` and private exponent `x`; y is published at DST
(R142, R143). -/
def newParticipant (p g plen : Nat) (x : BitVec 256) (s : State) : State :=
  let y := modExp g x.toNat p
  complete plen
    (bufWrite
      { s with dhp := p, dhg := g, plen := plen, dhx := x, dhy := y, dhv := true, secv := false, sreg := 0 }
      s.operands.dstN (toBE plen y))

/-- One draw of the private exponent has been answered (R141). -/
def afterExponentDraw (s : State) : State := { s with draws := s.draws + 1 }

/-- DHI: create an initiator participant (44_dh_modexp.md R142). -/
def execDhi (s : State) : Host.Outcome State Fault Refusal :=
  .next (afterChecks false
    [(!inBuf s.operands.dstN group5Len, .addressError)]
    (newParticipant group5Prime group5Gen group5Len (drawExponent s.draws) (afterExponentDraw s))
    s)

/-- DHR: create a responder participant with the host's group (44_dh_modexp.md R143). -/
def execDhr (s : State) : Host.Outcome State Fault Refusal :=
  let o := s.operands
  let p := beNat (bufRead s o.srcN o.lenN)
  let g := beNat (bufRead s o.src2N o.len2N)
  .next (afterChecks false
    [(decide (o.lenN = 0 ∨ Config.modexpMaxBytes < o.lenN ∨ Config.modexpMaxBytes < o.len2N), .lengthError),
     (!inBuf o.srcN o.lenN || !inBuf o.src2N o.len2N || !inBuf o.dstN o.lenN, .addressError),
     (decide (p < 3), .invalidGroup)]
    (newParticipant p g o.lenN (drawExponent s.draws) (afterExponentDraw s))
    s)

/-- DHS: compute the shared secret with a peer (44_dh_modexp.md R144). -/
def execDhs (s : State) : Host.Outcome State Fault Refusal :=
  let o := s.operands
  let sec := modExp (beNat (bufRead s o.srcN o.lenN)) s.dhx.toNat s.dhp
  .next (afterChecks false
    [(!s.dhv, .stateError),
     (decide (Config.modexpMaxBytes < o.lenN), .lengthError),
     (!inBuf o.srcN o.lenN || !inBuf o.dstN s.plen, .addressError)]
    (complete s.plen (bufWrite { s with sreg := sec, secv := true } o.dstN (toBE s.plen sec)))
    s)

/-- The bytes DHK hashes: TC(SREG), reversed when KDFLE = 1 (R145, R146). -/
def kdfInput (kdfle : Bool) (sreg : Nat) : Bytes :=
  if kdfle then (tcBytes sreg).reverse else tcBytes sreg

/-- DHK: derive a key from the shared secret (44_dh_modexp.md R145). -/
def execDhk (s : State) : Host.Outcome State Fault Refusal :=
  let o := s.operands
  let out := truncBytes (sha256 (kdfInput o.kdfle s.sreg)) o.lenN
  .next (afterChecks false
    [(!s.secv, .stateError),
     (decide (32 < o.lenN), .keySizeTooLarge),
     (!inBuf o.dstN o.lenN, .addressError)]
    (complete o.lenN (bufWrite s o.dstN out))
    s)

end Sys2Proof.Machine
end

