-- ==== Sys2Proof/Machine/Padding.lean ====
section
/-! DEFINITION. The padding engine and the commands PAD and UNPAD (42_padding.md). -/

namespace Sys2Proof.Machine

/-- pad_len for data of `n` bytes (R107). -/
def padLen (sch : Scheme) (n bs : Nat) : Nat :=
  match sch with
  | .zeros => if n % bs = 0 then 0 else bs - n % bs
  | .pkcs7 => bs - n % bs
  | .ansix923 => bs - n % bs
  | .iso10126 => bs - n % bs

/-- How many random bytes the padding draws: pad_len − 1 for ISO10126, none else (R111, 60_exceptions.md R165). -/
def padDraws (sch : Scheme) (n bs : Nat) : Nat :=
  match sch with
  | .iso10126 => padLen .iso10126 n bs - 1
  | .zeros => 0
  | .pkcs7 => 0
  | .ansix923 => 0

/-- The bytes appended, given the drawn filler bytes (R108 to R111). -/
def padTail (sch : Scheme) (n bs : Nat) (filler : Bytes) : Bytes :=
  match sch with
  | .zeros => zeroBytes (padLen .zeros n bs)
  | .pkcs7 => List.replicate (padLen .pkcs7 n bs) (BitVec.ofNat 8 (padLen .pkcs7 n bs))
  | .ansix923 => zeroBytes (padLen .ansix923 n bs - 1) ++ [BitVec.ofNat 8 (padLen .ansix923 n bs)]
  | .iso10126 => filler ++ [BitVec.ofNat 8 (padLen .iso10126 n bs)]

/-- pad(data, bs) (R108 to R111). `filler` is what the random source answers; only ISO10126 uses it. -/
def padBytes (sch : Scheme) (data : Bytes) (bs : Nat) (filler : Bytes) : Bytes :=
  data ++ padTail sch data.length bs filler

/-- data[0..n) with n the largest index such that data[n−1] ≠ 0 (R112). -/
def stripZeros (data : Bytes) : Bytes := (data.reverse.dropWhile (fun b => b == 0#8)).reverse

/-- The common shape of R113 to R115: strip p = the last byte's count when 1 ≤ p ≤ bs, p ≤ len(data) and the scheme's test of
the last p bytes holds, else return the data unchanged. -/
def stripCounted (tailOk : Byte → Bytes → Bool) (data : Bytes) (bs : Nat) : Bytes :=
  match data.getLast? with
  | none => data
  | some p =>
    if p.toNat < 1 ∨ bs < p.toNat ∨ data.length < p.toNat then data
    else if tailOk p (data.drop (data.length - p.toNat)) then data.take (data.length - p.toNat)
    else data

/-- The last p bytes all equal p (R113). -/
def pkcs7Tail (p : Byte) (tail : Bytes) : Bool := tail.all (fun b => b == p)

/-- The last p bytes but the final one are all zero (R114). -/
def ansiTail (_ : Byte) (tail : Bytes) : Bool := tail.dropLast.all (fun b => b == 0#8)

/-- ISO10126 reads only the final length byte (R115). -/
def isoTail (_ : Byte) (_ : Bytes) : Bool := true

/-- unpad(data, bs) (R112 to R115). It never raises an error (R116). -/
def unpadBytes (sch : Scheme) (data : Bytes) (bs : Nat) : Bytes :=
  match sch with
  | .zeros => stripZeros data
  | .pkcs7 => stripCounted pkcs7Tail data bs
  | .ansix923 => stripCounted ansiTail data bs
  | .iso10126 => stripCounted isoTail data bs

/-- PAD once its scheme is known to be legal (R118). -/
def padWith (sch : Scheme) (bs : Nat) (s : State) : State :=
  let o := s.operands
  let n := o.lenN + padLen sch o.lenN bs
  let draws := padDraws sch o.lenN bs
  let out := padBytes sch (bufRead s o.srcN o.lenN) bs (drawBytes s.draws draws)
  afterChecks false
    [(decide (bs = 0), .invalidBlockSize),
     (!inBuf o.srcN o.lenN || !inBuf o.dstN n, .addressError)]
    (complete n (bufWrite { s with draws := s.draws + draws } o.dstN out))
    s

/-- PAD: apply the padding of CTRL.PAD (42_padding.md R118). -/
def execPad (bs : Nat) (s : State) : Host.Outcome State Fault Refusal :=
  .next (match schemeOf s.operands.padCode with
    | none => raiseError false .unsupportedPadding s
    | some sch => padWith sch bs s)

/-- UNPAD once its scheme is known to be legal (R119). -/
def unpadWith (sch : Scheme) (bs : Nat) (s : State) : State :=
  let o := s.operands
  let out := unpadBytes sch (bufRead s o.srcN o.lenN) bs
  afterChecks false
    [(decide (bs = 0), .invalidBlockSize),
     (!inBuf o.srcN o.lenN || !inBuf o.dstN o.lenN, .addressError)]
    (complete out.length (bufWrite s o.dstN out))
    s

/-- UNPAD: remove the padding of CTRL.PAD (42_padding.md R119). -/
def execUnpad (bs : Nat) (s : State) : Host.Outcome State Fault Refusal :=
  .next (match schemeOf s.operands.padCode with
    | none => raiseError false .unsupportedPadding s
    | some sch => unpadWith sch bs s)

end Sys2Proof.Machine
end

