-- ==== Sys2Proof/Machine/Modes.lean ====
section
/-! DEFINITION. The mode engine and the commands CTX, ENC and DEC (43_modes.md). -/

namespace Sys2Proof.Machine

/-! The mask generator and the counter -/

/-- One SplitMix64 output from the state after its increment (R133). -/
def splitMixOut (st : BitVec 64) : BitVec 64 :=
  let z1 := (st ^^^ (st >>> 30)) * 0xBF58476D1CE4E5B9#64
  let z2 := (z1 ^^^ (z1 >>> 27)) * 0x94D049BB133111EB#64
  z2 ^^^ (z2 >>> 31)

/-- `n` outputs from a generator state, each as 8 little-endian bytes (R133). -/
def splitMixBytes : Nat → BitVec 64 → Bytes
  | 0, _ => []
  | n + 1, st =>
    let st' := st + 0x9E3779B97F4A7C15#64
    toLE 8 (splitMixOut st').toNat ++ splitMixBytes n st'

/-- RD_PRNG(seed, n): SplitMix64 from the zero-extended seed, restarted for every block (R133). -/
def rdPrng (seed : Word) (n : Nat) : Bytes := truncBytes (splitMixBytes ((n + 7) / 8) (seed.setWidth 64)) n

/-- The seed LE(IV[0..4)) ⊕ (k mod 2^32) (R132). -/
def rdSeed (iv : Bytes) (k : BitVec 64) : Word := BitVec.ofNat 32 (leNat (iv.take 4)) ^^^ k.setWidth 32

/-- The mask Δ_k of B bytes (R132). -/
def rdMask (iv : Bytes) (b : Nat) (k : BitVec 64) : Bytes := rdPrng (rdSeed iv k) b

/-- T_k: IV[0 .. B−8) and the trailing 8 bytes plus k mod 2^64, in the byte order of LCTRLE (R131). -/
def ctrBlock (iv : Bytes) (le : Bool) (b : Nat) (k : BitVec 64) : Bytes :=
  let tail := iv.drop (b - 8)
  if le then iv.take (b - 8) ++ toLE 8 (BitVec.ofNat 64 (leNat tail) + k).toNat
  else iv.take (b - 8) ++ toBE 8 (BitVec.ofNat 64 (beNat tail) + k).toNat

/-! The per-block functions -/

/-- What a block function reads of the context: LMODE, IV, LCTRLE and B. -/
structure ModeCtx where
  mode : Mode
  iv : Bytes
  le : Bool
  b : Nat
deriving DecidableEq, Repr

/-- The operation's registers: FB, PP, PCR and BLKIDX (10_state.md R36). -/
structure OpRegs where
  fb : Bytes
  pp : Bytes
  pcr : Bytes
  blk : BitVec 64
deriving DecidableEq, Repr

/-- x ⊕ trunc(K, |x|) (R129 to R131). -/
def xorTrunc (x k : Bytes) : Bytes := xorBytes x (truncBytes k x.length)

/-- s ‖ 0^(B − |s|) (R129). -/
def fillBlock (b : Nat) (s : Bytes) : Bytes := s ++ zeroBytes (b - s.length)

/-- ENCBLOCK_m, without the count (R126 to R132): the output block and the registers, BLKIDX aside. -/
def encBlockCore (e : Bytes → Bytes) (c : ModeCtx) (r : OpRegs) (x : Bytes) : Bytes × OpRegs :=
  match c.mode with
  | .ecb => (e x, r)
  | .cbc =>
    let y := e (xorBytes x r.fb)
    (y, { r with fb := y })
  | .pcbc =>
    let y := e (xorBytes x (xorBytes r.pp r.pcr))
    (y, { r with pp := x, pcr := y })
  | .cfb =>
    let y := xorTrunc x (e r.fb)
    (y, { r with fb := fillBlock c.b y })
  | .ofb =>
    let k := e r.fb
    (xorTrunc x k, { r with fb := k })
  | .ctr => (xorTrunc x (e (ctrBlock c.iv c.le c.b r.blk)), r)
  | .randomDelta => (e (xorBytes x (rdMask c.iv c.b r.blk)), r)

/-- DECBLOCK_m, without the count (R126 to R132). CFB decrypts with E. -/
def decBlockCore (e d : Bytes → Bytes) (c : ModeCtx) (r : OpRegs) (x : Bytes) : Bytes × OpRegs :=
  match c.mode with
  | .ecb => (d x, r)
  | .cbc => (xorBytes (d x) r.fb, { r with fb := x })
  | .pcbc =>
    let y := xorBytes (d x) (xorBytes r.pp r.pcr)
    (y, { r with pp := y, pcr := x })
  | .cfb => (xorTrunc x (e r.fb), { r with fb := fillBlock c.b x })
  | .ofb =>
    let k := e r.fb
    (xorTrunc x k, { r with fb := k })
  | .ctr => (xorTrunc x (e (ctrBlock c.iv c.le c.b r.blk)), r)
  | .randomDelta => (xorBytes (d x) (rdMask c.iv c.b r.blk), r)

/-- BLKIDX <- (BLKIDX + 1) mod 2^64 after every block, including a short final one (43_modes.md section 3). -/
def countBlock (p : Bytes × OpRegs) : Bytes × OpRegs := (p.1, { p.2 with blk := p.2.blk + 1 })

/-- One block of the operation in a direction: 0 encrypt, 1 decrypt. -/
def opBlock (k : KeySchedule) (c : ModeCtx) (dir : Bool) (r : OpRegs) (x : Bytes) : Bytes × OpRegs :=
  countBlock (if dir then decBlockCore (encryptBlock k) (decryptBlock k) c r x
    else encBlockCore (encryptBlock k) c r x)

/-- The blocks of a chunk in ascending order, each reading the registers the previous one left (R134, R135, R137). -/
def runBlocks (f : OpRegs → Bytes → Bytes × OpRegs) : OpRegs → List Bytes → Bytes × OpRegs
  | r, [] => ([], r)
  | r, x :: xs =>
    let p := f r x
    let q := runBlocks f p.2 xs
    (p.1 ++ q.1, q.2)

/-- A whole chunk of data (R134, R135). -/
def runChunk (k : KeySchedule) (c : ModeCtx) (dir : Bool) (r : OpRegs) (x : Bytes) : Bytes × OpRegs :=
  runBlocks (opBlock k c dir) r (blocksOf c.b x)

/-! The context in the core's state -/

/-- z of R123: the IV, or 0^B when it is absent. -/
def ivOrZero (s : State) : Bytes :=
  match s.iv with
  | some v => v
  | none => zeroBytes s.blockSize

/-- The context the block functions read. -/
def modeCtx (s : State) : ModeCtx := ⟨s.lmode, ivOrZero s, s.lctrle, s.blockSize⟩

/-- The registers a chunk starts from: after BEGIN the IV and block 0 (R123), else those the last chunk left (20_memory.md
R60). -/
def startRegs (bf : Bool) (s : State) : OpRegs :=
  if bf then ⟨ivOrZero s, ivOrZero s, ivOrZero s, 0⟩ else ⟨s.fb, s.pp, s.pcr, s.blkidx⟩

/-- The operation state after a chunk: the registers it left, OPACT and OPDIR of BEGIN (R123) and of LAST (R134, R135). -/
def afterChunk (lf bf dir : Bool) (r : OpRegs) (s : State) : State :=
  { s with
    fb := r.fb, pp := r.pp, pcr := r.pcr, blkidx := r.blk,
    opact := if lf then false else s.opact || bf,
    opdir := if bf then dir else s.opdir }

/-- The checks R124: a context, and an operation in the same direction for a chunk without BEGIN. -/
def opChecks (bf dir : Bool) (s : State) : List (Bool × ErrorKind) :=
  [(!s.ctxv, .stateError), (!bf && (!s.opact || s.opdir != dir), .stateError)]

/-- CTX once its mode and scheme are known to be legal (R121). -/
def ctxWith (m : Mode) (p : Scheme) (s : State) : State :=
  let o := s.operands
  let b := s.blockSize
  let checks : List (Bool × ErrorKind) :=
    if m = .ecb then [(o.ivp, .invalidIv)]
    else [(!o.ivp || decide (o.len2N ≠ b), .invalidIv), (!inBuf o.src2N b, .addressError)]
  afterChecks true checks
    (complete 0
      { s with
        iv := if m = .ecb then none else some (bufRead s o.src2N b)
        lmode := m, lpad := p, lctrle := o.ctrle, ctxv := true, opact := false })
    s

/-- CTX: configure the cipher context (43_modes.md R121). -/
def execCtx (s : State) : Host.Outcome State Fault Refusal :=
  .next (if s.keyed then
      match modeOf s.operands.modeCode with
      | none => raiseError true .unsupportedMode s
      | some m =>
        match schemeOf s.operands.padCode with
        | none => raiseError true .unsupportedPadding s
        | some p => ctxWith m p s
    else raiseError true .stateError s)

/-- How many bytes an ENC chunk adds by padding: only the LAST chunk of a block mode is padded (R120, R134). -/
def encPadLen (lf : Bool) (s : State) : Nat :=
  if s.lmode.isBlock && lf then padLen s.lpad s.operands.lenN s.blockSize else 0

/-- How many random bytes an ENC chunk draws (R134). -/
def encDraws (lf : Bool) (s : State) : Nat :=
  if s.lmode.isBlock && lf then padDraws s.lpad s.operands.lenN s.blockSize else 0

/-- The data an ENC chunk encrypts: its input, padded when it is the LAST of a block mode (R134). -/
def encInput (lf : Bool) (s : State) : Bytes :=
  let x := bufRead s s.operands.srcN s.operands.lenN
  if s.lmode.isBlock && lf then padBytes s.lpad x s.blockSize (drawBytes s.draws (encDraws lf s)) else x

/-- ENC: encrypt one chunk (43_modes.md R134). -/
def execEnc (lf bf : Bool) (s : State) : Host.Outcome State Fault Refusal :=
  let o := s.operands
  let n := o.lenN + encPadLen lf s
  let out := runChunk s.sched (modeCtx s) false (startRegs bf s) (encInput lf s)
  .next (afterChecks true
    (opChecks bf false s ++
      [(!lf && decide (o.lenN % s.blockSize ≠ 0), .lengthError),
       (!inBuf o.srcN o.lenN || !inBuf o.dstN n, .addressError)])
    (complete n
      (bufWrite (afterChunk lf bf false out.2 { s with draws := s.draws + encDraws lf s }) o.dstN out.1))
    s)

/-- What a DEC chunk writes: its blocks decrypted, unpadded when it is the LAST of a block mode (R135). -/
def decOutput (lf : Bool) (s : State) (y : Bytes) : Bytes :=
  if s.lmode.isBlock && lf then unpadBytes s.lpad y s.blockSize else y

/-- DEC: decrypt one chunk (43_modes.md R135). -/
def execDec (lf bf : Bool) (s : State) : Host.Outcome State Fault Refusal :=
  let o := s.operands
  let out := runChunk s.sched (modeCtx s) true (startRegs bf s) (bufRead s o.srcN o.lenN)
  let y := decOutput lf s out.1
  .next (afterChecks true
    (opChecks bf true s ++
      [((s.lmode.isBlock || !lf) && decide (o.lenN % s.blockSize ≠ 0), .lengthError),
       (!inBuf o.srcN o.lenN || !inBuf o.dstN o.lenN, .addressError)])
    (complete y.length (bufWrite (afterChunk lf bf true out.2 s) o.dstN y))
    s)

end Sys2Proof.Machine
end

