-- ==== Sys2Proof/Machine/Rc4.lean ====
section
/-! DEFINITION. The RC4 unit: KSA, PRGA and the commands RC4KEY and RC4 (41_rc4.md). -/

namespace Sys2Proof.Machine

/-- S[i] (10_state.md R37). -/
def rc4At (s : Bytes) (i : Nat) : Byte := s.getD i 0#8

/-- swap(S[i], S[j]) (R103). -/
def rc4Swap (s : Bytes) (i j : Nat) : Bytes := (s.set i (rc4At s j)).set j (rc4At s i)

/-- S[k] <- k for k in 0..255 (R103). -/
def rc4Identity : Bytes := (List.range 256).map (BitVec.ofNat 8)

/-- The key-scheduling loop over the values of k in `ks`, from (S, j) (R103). -/
def ksaLoop (key : Bytes) : List Nat → Bytes → Byte → Bytes
  | [], s, _ => s
  | k :: ks, s, j =>
    let j' : Byte := j + rc4At s k + key.getD (k % key.length) 0#8
    ksaLoop key ks (rc4Swap s k j'.toNat) j'

/-- KSA(key): the permutation S it leaves; I and J become 0 (R103). -/
def ksa (key : Bytes) : Bytes := ksaLoop key (List.range 256) rc4Identity 0#8

/-- The RC4 unit's S, I and J. -/
structure Rc4State where
  s : Bytes
  i : Byte
  j : Byte
deriving DecidableEq, Repr

/-- I, J and S after one step of the PRGA (R104). -/
def prgaNext (r : Rc4State) : Rc4State :=
  let i' : Byte := r.i + 1
  let j' : Byte := r.j + rc4At r.s i'.toNat
  { s := rc4Swap r.s i'.toNat j'.toNat, i := i', j := j' }

/-- The keystream byte k = S[(S[I] + S[J]) mod 256] after the swap (R104). -/
def prgaKey (r : Rc4State) : Byte := rc4At r.s (rc4At r.s r.i.toNat + rc4At r.s r.j.toNat).toNat

/-- PRGA over a byte string, in order t = 0, 1, ... (R104, R106): the output bytes and the state left. -/
def rc4Process : Rc4State → Bytes → Bytes × Rc4State
  | r, [] => ([], r)
  | r, x :: xs =>
    let r' := prgaNext r
    let rest := rc4Process r' xs
    ((x ^^^ prgaKey r') :: rest.1, rest.2)

/-- The unit's state inside the core's. -/
def State.rc4 (s : State) : Rc4State := ⟨s.rcS, s.rcI, s.rcJ⟩

/-- RC4KEY: key the RC4 unit (41_rc4.md R105). -/
def execRc4key (s : State) : Host.Outcome State Fault Refusal :=
  let o := s.operands
  .next (afterChecks false
    [(decide (o.lenN = 0 ∨ 256 < o.lenN), .invalidKeySize),
     (!inBuf o.srcN o.lenN, .addressError)]
    (complete 0 { s with rcS := ksa (bufRead s o.srcN o.lenN), rcI := 0, rcJ := 0, rc4k := true })
    s)

/-- RC4: encrypt or decrypt LEN bytes (41_rc4.md R106). -/
def execRc4 (s : State) : Host.Outcome State Fault Refusal :=
  let o := s.operands
  let out := rc4Process s.rc4 (bufRead s o.srcN o.lenN)
  .next (afterChecks false
    [(!s.rc4k, .stateError),
     (!inBuf o.srcN o.lenN || !inBuf o.dstN o.lenN, .addressError)]
    (complete o.lenN
      (bufWrite { s with rcS := out.2.s, rcI := out.2.i, rcJ := out.2.j } o.dstN out.1))
    s)

end Sys2Proof.Machine
end

