-- ==== Sys2Proof/Machine/System.lean ====
section
/-! DEFINITION. The system commands NOP and SRST (45_system.md). -/

namespace Sys2Proof.Machine

/-- NOP: complete without effect (45_system.md R151). -/
def execNop (s : State) : Host.Outcome State Fault Refusal := .next (complete 0 s)

/-- Every internal state item at its reset value and HAZ cleared; the host's registers, BUF and the rest stay (R152). -/
def softReset (s : State) : State :=
  { s with
    keyed := false, lalg := .des, key := [], sched := .des (List.replicate 16 0#48)
    ctxv := false, lmode := .ecb, lpad := .zeros, lctrle := false, iv := none
    opact := false, opdir := false, fb := zeroBlock, pp := zeroBlock, pcr := zeroBlock
    blkidx := 0
    rc4k := false, rcS := zeroBytes 256, rcI := 0, rcJ := 0
    dhv := false, secv := false, dhp := 0, dhg := 0, plen := 0
    dhx := 0, dhy := 0, sreg := 0
    haz := false }

/-- SRST: soft reset of the engine (45_system.md R152). -/
def execSrst (s : State) : Host.Outcome State Fault Refusal := .next (complete 0 (softReset s))

end Sys2Proof.Machine
end

