-- ==== Sys2Proof/Machine/Dispatch.lean ====
section
/-! DEFINITION. The dispatch of a decoded command to its meaning: one arm per constructor (30_encoding.md R68). -/

namespace Sys2Proof.Machine

def exec (i : Instr) (s : State) : Host.Outcome State Fault Refusal :=
  match i with
  | .nop => Sys2Proof.Machine.execNop s
  | .key => Sys2Proof.Machine.execKey s
  | .ctx => Sys2Proof.Machine.execCtx s
  | .encb => Sys2Proof.Machine.execEncb s
  | .decb => Sys2Proof.Machine.execDecb s
  | .enc lf bf => Sys2Proof.Machine.execEnc lf bf s
  | .dec lf bf => Sys2Proof.Machine.execDec lf bf s
  | .pad bs => Sys2Proof.Machine.execPad bs s
  | .unpad bs => Sys2Proof.Machine.execUnpad bs s
  | .rc4key => Sys2Proof.Machine.execRc4key s
  | .rc4 => Sys2Proof.Machine.execRc4 s
  | .dhi => Sys2Proof.Machine.execDhi s
  | .dhr => Sys2Proof.Machine.execDhr s
  | .dhs => Sys2Proof.Machine.execDhs s
  | .dhk => Sys2Proof.Machine.execDhk s
  | .srst => Sys2Proof.Machine.execSrst s

end Sys2Proof.Machine
end

