-- ==== Sys2Proof/Machine/HostPort.lean ====
section
/-! DEFINITION. The host port: the register window and the BUF window, bus errors, the busy protocol, the reset input
(10_state.md R16 to R32, 20_memory.md R43 to R57, 70_reset_and_hazards.md R169). -/

namespace Sys2Proof.Machine

/-- ID (10_state.md R18). -/
def idValue : Word := 0x43570007

/-- The bits of CTRL that are not reserved (10_state.md R19). -/
def ctrlMask : Word := 0x00013F77

/-- What a host read of a register-window offset returns; reserved offsets and CMD read 0 (10_state.md R16, R17). -/
def regRead (s : State) (off : Nat) : Word :=
  match off with
  | 0x000 => idValue
  | 0x004 => s.regs.ctrl
  | 0x00C => statusWord s
  | 0x010 => s.errcode.setWidth 32
  | 0x014 => s.regs.src
  | 0x018 => s.regs.len
  | 0x01C => s.regs.dst
  | 0x020 => s.regs.src2
  | 0x024 => s.regs.len2
  | 0x028 => s.outlen
  | 0x02C => s.blkidx.extractLsb' 0 32
  | 0x030 => s.blkidx.extractLsb' 32 32
  | _ => 0

/-- A host write of a register-window offset while BUSY = 0: RW registers store, CMD issues, STATUS clears its W1C bits, RO
registers and reserved offsets and bits ignore it (10_state.md R16 to R32). -/
def regWrite (off : Nat) (v : Word) (s : State) : State :=
  match off with
  | 0x004 => { s with regs := { s.regs with ctrl := v &&& ctrlMask } }
  | 0x008 => issue v s
  | 0x00C => ackStatus v s
  | 0x014 => { s with regs := { s.regs with src := v } }
  | 0x018 => { s with regs := { s.regs with len := v } }
  | 0x01C => { s with regs := { s.regs with dst := v } }
  | 0x020 => { s with regs := { s.regs with src2 := v } }
  | 0x024 => { s with regs := { s.regs with len2 := v } }
  | _ => s

/-- A host access that 20_memory.md R47 defines. -/
inductive Access where
  /-- 32 bits at a register-window offset -/
  | reg (off : Nat)
  /-- `n` bytes at BUF offset `a` -/
  | buf (a n : Nat)
deriving DecidableEq, Repr

/-- How many bytes a width moves, if the bus defines it (R47). -/
def Width.bytes? : Width → Option Nat
  | .w8 => some 1
  | .w16 => some 2
  | .w32 => some 4
  | .other _ => none

/-- The bus error of an undefined width (R48). -/
def widthFault : Width → Fault
  | .w8 => .busWidth 8
  | .w16 => .busWidth 16
  | .w32 => .busWidth 32
  | .other b => .busWidth b

/-- An access of `n` bytes at a host offset, or the bus error it meets (20_memory.md R43, R47, R48). -/
def accessAt (n off : Nat) : Except Fault Access :=
  if off < Config.regWindow then
    if n = 4 ∧ off % 4 = 0 then .ok (.reg off) else .error (.busMisaligned off)
  else if Config.bufWindow ≤ off ∧ off < Config.bufWindow + Config.bufSize ∧ off < Config.hostSpace then
    if off % n = 0 then .ok (.buf (off - Config.bufWindow) n) else .error (.busMisaligned off)
  else .error (.busUnmapped off)

/-- The access a host operation makes, or its bus error. -/
def accessOf (w : Width) (off : Nat) : Except Fault Access :=
  match w.bytes? with
  | none => .error (widthFault w)
  | some n => accessAt n off

/-- A reply of `n` bytes: exactly the bits read (45_system.md R153). -/
def replyOf (n : Nat) (v : Word) : Reply :=
  match n with
  | 1 => .b8 (v.setWidth 8)
  | 2 => .b16 (v.setWidth 16)
  | _ => .b32 v

/-- `n` bytes of BUF on the host's lanes, the lowest offset in bits [7:0] (20_memory.md R45). -/
def bufValue (s : State) (a n : Nat) : Word := BitVec.ofNat 32 (leNat (bufRead s a n))

/-- The core answers a host read. -/
def answer (r : Reply) (s : State) : State := { s with replies := r :: s.replies }

/-- A host access while BUSY = 1 that it must not make sets HAZ (20_memory.md R56, R57). -/
def setHaz (s : State) : State := { s with haz := true }

/-- A host read (20_memory.md R49, R57): no side effect, but a BUF read while BUSY returns a free value and sets HAZ. -/
def hostRead (w : Width) (off : Nat) (s : State) : Host.Outcome State Fault Refusal :=
  match accessOf w off with
  | .error f => .fault f
  | .ok (.reg r) => .next (answer (.b32 (regRead s r)) s)
  | .ok (.buf a n) =>
    .next (if s.busy then answer (replyOf n (Config.busyRead s.draws)) (setHaz { s with draws := s.draws + 1 })
      else answer (replyOf n (bufValue s a n)) s)

/-- A host write (20_memory.md R45, R56): while BUSY it is dropped and sets HAZ. -/
def hostWrite (w : Width) (off : Nat) (v : Word) (s : State) : Host.Outcome State Fault Refusal :=
  match accessOf w off with
  | .error f => .fault f
  | .ok (.reg r) => .next (if s.busy then setHaz s else regWrite r v s)
  | .ok (.buf a n) => .next (if s.busy then setHaz s else bufWrite s a (toLE n v.toNat))

/-- The reset input: every piece of state takes its reset value, a command in flight is discarded, BUF is unspecified anew
(70_reset_and_hazards.md R169, R170). The model's own fields go on (log 12). -/
def hardReset (s : State) : State :=
  { State.reset with
    host := s.host, replies := s.replies, draws := s.draws, turns := s.turns, bufGen := s.bufGen + 1 }

/-- One host step (00_scope.md R13). A `wait` that is reached with BUSY = 0 is over (30_encoding.md R71). -/
def hostStep (op : HostOp) (s : State) : Host.Outcome State Fault Refusal :=
  match op with
  | .read w off => hostRead w off s
  | .write w off v => hostWrite w off v s
  | .wait => .next s
  | .reset => .next (hardReset s)

end Sys2Proof.Machine
end

