-- ==== Sys2Proof/Machine/Engine.lean ====
section
/-! DEFINITION. The engine's step and which of the two agents moves (00_scope.md R13, 20_memory.md R53 to R58). -/

namespace Sys2Proof.Machine

/-- The engine's step (20_memory.md R55): the command in flight, decoded and executed as one atomic step. A word that decodes
to nothing completes with IllegalCommand (30_encoding.md R69). With nothing in flight the core is idle and every state
survives (60_exceptions.md R168). -/
def engineStep (s : State) : Host.Outcome State Fault Refusal :=
  match s.inflight with
  | none => .next s
  | some c =>
    match decode c.word with
    | .ok i => exec i s
    | .error _ => .next (raiseError false .illegalCommand s)

/-- Does the engine move, when the host has `op` pending? Only while a command is in flight: then a `wait` lets it, and any
other access may come before or after it, as the free arbitration has it (R13, R58; log 1). -/
def engineMoves (op : HostOp) (s : State) : Bool :=
  s.busy && (op == .wait || Config.engineTurn s.turns)

/-- A free arbitration has been made: both agents could have moved. -/
def afterTurn (op : HostOp) (s : State) : State :=
  if s.busy && op != .wait then { s with turns := s.turns + 1 } else s

/-- One step of the core: of the engine when no host access is pending, else of the agent whose turn it is (R13). -/
def nextMove (s : State) : Host.Outcome State Fault Refusal :=
  match s.host with
  | [] => engineStep s
  | op :: rest =>
    if engineMoves op s then engineStep (afterTurn op s)
    else hostStep op { afterTurn op s with host := rest }

end Sys2Proof.Machine
end

