-- ==== Sys2Proof/Machine/Step.lean ====
section
/-! DEFINITION. The step, and where a command word is put for the next step to run it. -/

namespace Sys2Proof.Machine

/-- One step of the core (00_scope.md R13). -/
def step (s : State) : Host.Outcome State Fault Refusal := nextMove s

/-- The state in which the table's word is the command in flight, issued as a CMD write would issue it (20_memory.md R53),
and no host access is pending, so that the very next step executes it (log 2). -/
def State.withFetchWord (s : State) (nbits w : Nat) : State :=
  { issue (BitVec.ofNat 32 (w % 2 ^ nbits)) s with host := [] }

end Sys2Proof.Machine
end

