-- ==== Sys2Proof/Machine/Script.lean ====
section
/-! DEFINITION. Host scripts: the statements of 30_encoding.md R71 and R72 as the host accesses they stand for. -/

namespace Sys2Proof.Machine

/-- The named registers of the window (10_state.md R16). -/
inductive RegName where
  | id
  | ctrl
  | cmd
  | status
  | errcode
  | src
  | len
  | dst
  | src2
  | len2
  | outlen
  | blkidxLo
  | blkidxHi
deriving DecidableEq, Repr

/-- The offset of a register (R16). -/
def RegName.offset : RegName → Nat
  | .id => 0x000
  | .ctrl => 0x004
  | .cmd => 0x008
  | .status => 0x00C
  | .errcode => 0x010
  | .src => 0x014
  | .len => 0x018
  | .dst => 0x01C
  | .src2 => 0x020
  | .len2 => 0x024
  | .outlen => 0x028
  | .blkidxLo => 0x02C
  | .blkidxHi => 0x030

/-- A statement of a host script (R71) or a pseudo-instruction (R72). -/
inductive Stmt where
  | wr (r : RegName) (imm : Word)
  | rd (r : RegName)
  | wrbuf (a : Nat) (bs : Bytes)
  | rdbuf (a n : Nat)
  | wait
  | command (i : Instr)
  | encbuf
  | decbuf
  | ops (s n d : Word)
  | ops2 (s2 n2 : Word)
  | cfg (alg mode pad : BitVec 3) (ivp ctrle kdfle irqen : Bool)
  | clr
deriving DecidableEq, Repr

/-- A 32-bit write of a named register. -/
def wrReg (r : RegName) (imm : Word) : HostOp := .write .w32 r.offset imm

/-- 8-bit writes of a byte string from BUF offset `a` on; "the width is free" (R71). -/
def wrBytes (a : Nat) : Bytes → List HostOp
  | [] => []
  | b :: bs => .write .w8 (Config.bufWindow + a) (b.setWidth 32) :: wrBytes (a + 1) bs

/-- 8-bit reads of BUF[a .. a+n) (R71). -/
def rdBytes (a : Nat) : Nat → List HostOp
  | 0 => []
  | n + 1 => .read .w8 (Config.bufWindow + a) :: rdBytes (a + 1) n

/-- A command statement: `wr CMD, w` and then `wait` (R71). -/
def runCommand (i : Instr) : List HostOp := [wrReg .cmd (encode i), .wait]

/-- A bit at a position of a word. -/
def bitAt (b : Bool) (n : Nat) : Word := (BitVec.ofBool b).setWidth 32 <<< n

/-- The CTRL value of `cfg` (R72). -/
def cfgWord (alg mode pad : BitVec 3) (ivp ctrle kdfle irqen : Bool) : Word :=
  bitAt irqen 16 ||| bitAt kdfle 13 ||| bitAt ctrle 12 ||| bitAt ivp 11
    ||| (pad.setWidth 32 <<< 8) ||| (mode.setWidth 32 <<< 4) ||| alg.setWidth 32

/-- The host accesses of a statement (R71, R72). -/
def Stmt.expand : Stmt → List HostOp
  | .wr r imm => [wrReg r imm]
  | .rd r => [.read .w32 r.offset]
  | .wrbuf a bs => wrBytes a bs
  | .rdbuf a n => rdBytes a n
  | .wait => [.wait]
  | .command i => runCommand i
  | .encbuf => runCommand (.enc true true)
  | .decbuf => runCommand (.dec true true)
  | .ops s n d => [wrReg .src s, wrReg .len n, wrReg .dst d]
  | .ops2 s2 n2 => [wrReg .src2 s2, wrReg .len2 n2]
  | .cfg alg mode pad ivp ctrle kdfle irqen => [wrReg .ctrl (cfgWord alg mode pad ivp ctrle kdfle irqen)]
  | .clr => [wrReg .status 0x0000000E]

/-- The state with a script's accesses pending after those already there. -/
def State.withScript (s : State) (p : List Stmt) : State := { s with host := s.host ++ p.flatMap Stmt.expand }

end Sys2Proof.Machine
end

