-- ==== Sys2Proof/Machine/Stream.lean ====
section
/-! DEFINITION. The host's own code around the core: one command as the host gives it (70_reset_and_hazards.md R172) and the
streaming loops `encrypt_stream` and `decrypt_stream` with the IV prefix (R173). The host is not part of the core: its
accesses are put into the list `host` and run by `core`, and what it decides it decides from the replies (log 18). -/

namespace Sys2Proof.Machine

/-- Go on from a next state; a fault or a refusal ends the host's code. -/
def andThen {α β : Type} (o : Host.Outcome α Fault Refusal) (f : α → Host.Outcome β Fault Refusal) :
    Host.Outcome β Fault Refusal :=
  match o with
  | .next a => f a
  | .fault e => .fault e
  | .refused r => .refused r

/-- Run the core until the host has no access pending and nothing is in flight: each access takes one step and can issue one
command, which takes one more; a command already in flight takes one. -/
def settle (s : State) : Host.Outcome State Fault Refusal := Sys2Proof.core.run (2 * s.host.length + 1) s

/-- The host makes the accesses of a script, after those still pending, and they are over. -/
def converse (p : List Stmt) (s : State) : Host.Outcome State Fault Refusal := settle (s.withScript p)

/-- The value of a reply as the host sees it, the bits it did not read being 0. -/
def Reply.word : Reply → Word
  | .b8 v => v.setWidth 32
  | .b16 v => v.setWidth 32
  | .b32 v => v

/-- The last `n` replies, the oldest of them first. -/
def lastReplies (n : Nat) (s : State) : List Word := (s.replies.take n).reverse.map Reply.word

/-- What the host learns from its last two reads, of STATUS and of ERRCODE: the code, if STATUS.ERR = 1 (R172). -/
def reportedError (s : State) : Option Byte :=
  match lastReplies 2 s with
  | [status, code] => if status.getLsbD 2 then some (code.setWidth 8) else none
  | _ => none

/-- What the host holds between two commands: the core, the bytes its writer has been given, and the ERRCODE at which it has
stopped, if it has. -/
structure HostRun where
  core : State
  out : Bytes
  error : Option Byte
deriving DecidableEq, Repr

/-- The host reads OUTLEN, and then that many bytes at DST out of BUF (R172). -/
def readOutput (dst : Word) (s : State) : Host.Outcome HostRun Fault Refusal :=
  andThen (converse [.rd .outlen] s) fun t =>
    let n := ((lastReplies 1 t).headD 0).toNat
    andThen (converse [.rdbuf dst.toNat n] t) fun u =>
      .next ⟨u, (lastReplies n u).map fun w => w.setWidth 8, none⟩

/-- One command as the host gives it (R172): the accesses of `p` write its input and registers, issue it and wait; then the
host reads STATUS and ERRCODE, and, if no error, the output. -/
def hostCommand (p : List Stmt) (dst : Word) (s : State) : Host.Outcome HostRun Fault Refusal :=
  andThen (converse (p ++ [.rd .status, .rd .errcode]) s) fun t =>
    match reportedError t with
    | some e => .next ⟨t, [], some e⟩
    | none => readOutput dst t

/-- Where a stream's data goes through BUF, and the value of CTRL the host writes: SRC and DST of every chunk, SRC2 of the
IV. -/
structure StreamPlace where
  ctrl : Word
  src : Word
  dst : Word
  src2 : Word
deriving DecidableEq, Repr

/-- One chunk of a stream: its data and the flags BEGIN and LAST of its command (R173). -/
structure Chunk where
  data : Bytes
  first : Bool
  last : Bool
deriving DecidableEq, Repr

/-- What `read(reader, CHUNK_SIZE)` answers time after time until it answers 0 bytes (R173, log 18). -/
def readsOf (data : Bytes) : List Bytes := blocksOf Config.chunkSize data

/-- The encryption loop's chunks, from the reads still to come: the last one is the one that is short, and after the last read
it is empty (R173). -/
def encChunks (first : Bool) : List Bytes → List Chunk
  | [] => [⟨[], first, true⟩]
  | x :: xs =>
    if x.length < Config.chunkSize then [⟨x, first, true⟩] else ⟨x, first, false⟩ :: encChunks false xs

/-- The decryption loop's chunks, one read ahead: `cur` is the last one if it is short or if the read after it answers 0 bytes
(R173). -/
def decChunks (first : Bool) (cur : Bytes) : List Bytes → List Chunk
  | [] => [⟨cur, first, true⟩]
  | nxt :: rest =>
    if cur.length < Config.chunkSize || nxt.isEmpty then [⟨cur, first, true⟩]
    else ⟨cur, first, false⟩ :: decChunks false nxt rest

/-- The host's writes for one chunk: its data at SRC, CTRL and the operand registers, and the command (R172, R173). -/
def chunkScript (mk : Bool → Bool → Instr) (p : StreamPlace) (c : Chunk) : List Stmt :=
  [.wrbuf p.src.toNat c.data, .wr .ctrl p.ctrl, .ops p.src (BitVec.ofNat 32 c.data.length) p.dst,
    .command (mk c.last c.first)]

/-- The loop over the chunks: each output goes to the writer, and the first error stops the host (R173). -/
def streamChunks (mk : Bool → Bool → Instr) (p : StreamPlace) : List Chunk → HostRun → Host.Outcome HostRun Fault Refusal
  | [], h => .next h
  | c :: cs, h =>
    andThen (hostCommand (chunkScript mk p c) p.dst h.core) fun r =>
      match r.error with
      | some e => .next ⟨r.core, h.out, some e⟩
      | none => streamChunks mk p cs ⟨r.core, h.out ++ r.out, none⟩

/-- `encrypt_stream` on a core with its context in place, for a writer that has been given `sofar` (R173). -/
def encStream (p : StreamPlace) (sofar data : Bytes) (s : State) : Host.Outcome HostRun Fault Refusal :=
  streamChunks .enc p (encChunks true (readsOf data)) ⟨s, sofar, none⟩

/-- `decrypt_stream` on a core with its context in place (R173). -/
def decStream (p : StreamPlace) (data : Bytes) (s : State) : Host.Outcome HostRun Fault Refusal :=
  streamChunks .dec p (decChunks true ((readsOf data).headD []) (readsOf data).tail) ⟨s, [], none⟩

/-- The host's CTX with an IV: the IV at SRC2, its length in LEN2 (70_reset_and_hazards.md R171, R173). -/
def ctxScript (p : StreamPlace) (iv : Bytes) : List Stmt :=
  [.wrbuf p.src2.toNat iv, .wr .ctrl p.ctrl, .ops2 p.src2 (BitVec.ofNat 32 iv.length), .command .ctx]

/-- CTX with an IV, and then what the host does with the context. DESIGN CHOICE (log 18): if CTX fails, the host stops there
and its writer has been given nothing; the spec does not order the IV's write to the output against CTX. -/
def withIv (p : StreamPlace) (iv : Bytes) (s : State) (go : State → Host.Outcome HostRun Fault Refusal) :
    Host.Outcome HostRun Fault Refusal :=
  andThen (hostCommand (ctxScript p iv) p.dst s) fun r =>
    match r.error with
    | some e => .next ⟨r.core, [], some e⟩
    | none => go r.core

/-- Encryption with the IV prefixed: the host writes the IV to its output before the first chunk (R173), here after CTX has
taken it (DESIGN CHOICE, log 18). -/
def encStreamPrefixed (p : StreamPlace) (iv data : Bytes) (s : State) : Host.Outcome HostRun Fault Refusal :=
  withIv p iv s (encStream p iv data)

/-- Decryption with the IV prefixed: the host reads the first B bytes, places them at SRC2, issues CTX and streams the
remainder (R173). -/
def decStreamPrefixed (p : StreamPlace) (b : Nat) (data : Bytes) (s : State) : Host.Outcome HostRun Fault Refusal :=
  withIv p (data.take b) s (decStream p (data.drop b))

end Sys2Proof.Machine
end

