-- ==== Sys2Proof/Safety.lean ====
section
/-! DEFINITION. What counts as a safe run, and the invariants of the core, in the terms the statements use.
A safe run meets no host bus error and breaks no rule of the busy window (20_memory.md R48, 70_reset_and_hazards.md R175,
R180). -/

namespace Sys2Proof

open Machine

/-- The step does not stop in a fault. -/
def noFault (o : Host.Outcome State Fault Refusal) : Bool :=
  match o with
  | .next _ => true
  | .fault _ => false
  | .refused _ => true

/-- The run is over: the host has nothing left and no command is in flight (R180). -/
def runOver (s : State) : Bool := s.host.isEmpty && !s.busy

/-- A run of `k` steps that meets no fault. -/
def faultFree (k : Nat) (s : State) : Bool := noFault (core.run k s)

/-- The host has broken no rule of the busy window since HAZ was last cleared (R175). -/
def hazardFree (s : State) : Bool := !s.haz

/-! The invariants -/

/-- BUF is in canonical form and holds nothing outside BUF (20_memory.md R44). -/
def bufInv (s : State) : Prop := Memory.wf s.mem = true ∧ ∀ c ∈ s.mem, c.1 < Config.bufSize

/-- The register window: CTRL's reserved bits are 0 (10_state.md R19), ERRCODE holds a code that exists, and one other than 0
with ERR (60_exceptions.md R156), and a command in flight has the snapshot of the registers as they stand, with DONE, ERR and
ERRCODE cleared (20_memory.md R53, R54). -/
def windowInv (s : State) : Prop :=
  s.regs.ctrl &&& ~~~ctrlMask = 0 ∧ s.errcode.toNat ≤ 0x0C ∧ (s.err = true → s.errcode ≠ 0) ∧
  ∀ c, s.inflight = some c → c.ops = s.regs ∧ s.done = false ∧ s.err = false ∧ s.errcode = 0

/-- The block-cipher unit, the context and the mode engine agree (10_state.md R34 to R36): a keyed unit holds a legal key and
the schedule of that key; a context stands on a keyed unit and has an IV of B bytes exactly when its mode is not ECB; an
operation stands on a context and its registers have B bytes. -/
def cipherInv (s : State) : Prop :=
  (s.keyed = true → s.lalg.legalKeyLength s.key.length = true ∧ s.sched = scheduleOf s.lalg s.key) ∧
  (s.ctxv = true → s.keyed = true ∧ (s.iv = none ↔ s.lmode = .ecb)) ∧
  (∀ v, s.iv = some v → v.length = s.blockSize) ∧
  (s.opact = true → s.ctxv = true ∧ s.fb.length = s.blockSize ∧ s.pp.length = s.blockSize ∧ s.pcr.length = s.blockSize)

/-- The RC4 unit: S has 256 bytes and is a permutation of 0..255 once keyed (10_state.md R37, 41_rc4.md R103, R104). -/
def rc4Inv (s : State) : Prop := s.rcS.length = 256 ∧ (s.rc4k = true → s.rcS.Perm rc4Identity)

/-- The Diffie-Hellman unit (10_state.md R38): a participant has 3 ≤ p < 2^(8·PLEN), 1 ≤ PLEN ≤ 256, g below 2^2048, an
exponent in [1, 2^255 − 1] and y = g^x mod p; a shared secret stands on a participant and lies below p. -/
def dhInv (s : State) : Prop :=
  (s.dhv = true → 3 ≤ s.dhp ∧ s.dhp < 2 ^ (8 * s.plen) ∧ 1 ≤ s.plen ∧ s.plen ≤ Config.modexpMaxBytes ∧
    s.dhg < 2 ^ (8 * Config.modexpMaxBytes) ∧ 1 ≤ s.dhx.toNat ∧ s.dhx.toNat ≤ 2 ^ 255 - 1 ∧
    s.dhy = modExp s.dhg s.dhx.toNat s.dhp) ∧
  (s.secv = true → s.dhv = true ∧ s.sreg < s.dhp)

/-! Terms of the statements -/

/-- From `s` to `t` the bytes `v` are stored at BUF offset `a` and no other byte of BUF changes. -/
def storedAt (s t : State) (a : Nat) (v : Bytes) : Prop :=
  bufRead t a v.length = v ∧ ∀ x, x < a ∨ a + v.length ≤ x → bufByte t x = bufByte s x

/-- The commands whose failure ends the operation: ENC, DEC and CTX (60_exceptions.md R160). -/
def endsOperation : Instr → Bool
  | .enc _ _ | .dec _ _ | .ctx => true
  | .nop | .key | .encb | .decb | .pad _ | .unpad _ | .rc4key | .rc4 | .dhi | .dhr | .dhs | .dhk | .srst => false

/-- The command raises the error of code `e`: the writes of 60_exceptions.md R160 and no other. -/
def failsWith (i : Instr) (e : Byte) (s : State) : Prop :=
  exec i s = .next { s with outlen := 0, errcode := e, err := true, done := true, inflight := none,
                            opact := s.opact && !endsOperation i }

/-- The legal words, as the match and mask pairs of 30_encoding.md R68. -/
def legalWord (w : Word) : Bool :=
  (w &&& 0xFFFFFCFF) == 0x00000005 || (w &&& 0xFFFFFCFF) == 0x00000006 ||
  (w &&& 0xFF00FFFF) == 0x00000007 || (w &&& 0xFF00FFFF) == 0x00000008 ||
  w == 0x00000000 || w == 0x00000001 || w == 0x00000002 || w == 0x00000003 || w == 0x00000004 ||
  w == 0x00000009 || w == 0x0000000A || w == 0x0000000B || w == 0x0000000C || w == 0x0000000D ||
  w == 0x0000000E || w == 0x0000000F

/-- The commands that process chunks: ENC and DEC. -/
def isChunk : Instr → Bool
  | .enc _ _ | .dec _ _ => true
  | .nop | .key | .ctx | .encb | .decb | .pad _ | .unpad _ => false
  | .rc4key | .rc4 | .dhi | .dhr | .dhs | .dhk | .srst => false

/-- The state that cannot be read out (10_state.md R42), with KEY (R34). INFLIGHT is not among it: it is what STATUS.BUSY
shows. -/
structure Hidden where
  key : Bytes
  sched : KeySchedule
  iv : Option Bytes
  fb : Bytes
  pp : Bytes
  pcr : Bytes
  rcS : Bytes
  rcI : Byte
  rcJ : Byte
  dhx : BitVec 256
  sreg : Nat
deriving DecidableEq, Repr

/-- The state with other hidden contents. -/
def withHidden (h : Hidden) (s : State) : State :=
  { s with key := h.key, sched := h.sched, iv := h.iv, fb := h.fb, pp := h.pp, pcr := h.pcr,
           rcS := h.rcS, rcI := h.rcI, rcJ := h.rcJ, dhx := h.dhx, sreg := h.sreg }

/-- The accesses 20_memory.md R47 defines, over the map of R43. -/
def definedAccess (w : Width) (off : Nat) : Prop :=
  (off < 0x100 ∧ w = .w32 ∧ off % 4 = 0) ∨
  (0x40000 ≤ off ∧ off < 0x80000 ∧ (w = .w8 ∨ (w = .w16 ∧ off % 2 = 0) ∨ (w = .w32 ∧ off % 4 = 0)))

end Sys2Proof
end

