-- ==== Sys2Proof/Certificates/Slice0/Obligations.lean ====
section
/-! DEFINITION. The statements for the provers. Each docstring names the rule of spec/ it formalises. A statement about a value
the spec leaves free holds for every value of it: no statement names a value of an opaque constant. -/

open Sys2Proof Sys2Proof.Machine

/-! Encoding -/

/-- 30_encoding.md R66, R68: decoding the word of a well-formed command gives the command back, with every flag and every
block size the encoding admits. -/
def Obligations.DecodeOfEncodeIsTheCommand : Prop :=
  ∀ i : Instr, i.wellFormed = true → decode (encode i) = .ok i

/-- 30_encoding.md R68: OP selects the row, the row's mask says which words are legal, and L, B and BS are read from bits 8, 9
and 23..16; no other word decodes. -/
def Obligations.LegalWordsAreTheOpcodeMap : Prop :=
  ∀ w : Word,
    (w &&& 0xFFFFFCFF = 0x00000005 → decode w = .ok (.enc (w.getLsbD 8) (w.getLsbD 9))) ∧
    (w &&& 0xFFFFFCFF = 0x00000006 → decode w = .ok (.dec (w.getLsbD 8) (w.getLsbD 9))) ∧
    (w &&& 0xFF00FFFF = 0x00000007 → decode w = .ok (.pad (w.toNat / 2 ^ 16 % 256))) ∧
    (w &&& 0xFF00FFFF = 0x00000008 → decode w = .ok (.unpad (w.toNat / 2 ^ 16 % 256))) ∧
    (∀ i ∈ [(0x00000000, Instr.nop), (0x00000001, .key), (0x00000002, .ctx), (0x00000003, .encb), (0x00000004, .decb),
        (0x00000009, .rc4key), (0x0000000A, .rc4), (0x0000000B, .dhi), (0x0000000C, .dhr), (0x0000000D, .dhs),
        (0x0000000E, .dhk), (0x0000000F, .srst)],
      w = i.1 → decode w = .ok i.2) ∧
    (legalWord w = false → ∃ e, decode w = .error e)

/-- 30_encoding.md R71, 95_test_vectors.md L2.10: words the spec writes out decode to the commands it names. -/
def Obligations.WrittenOutWordsDecode : Prop :=
  decode 0x00000305 = .ok (.enc true true) ∧ decode 0x00000106 = .ok (.dec true false) ∧
  decode 0x00000205 = .ok (.enc false true) ∧ decode 0x00080007 = .ok (.pad 8) ∧
  decode 0x00080008 = .ok (.unpad 8) ∧ decode 0x00000001 = .ok .key ∧ decode 0x0000000A = .ok .rc4 ∧
  decode 0x0000000D = .ok .dhs ∧ decode 0x0000000F = .ok .srst ∧
  decode 0x00000101 = .error (.reservedBits 0x101) ∧ decode 0x00010000 = .error (.reservedBits 0x10000) ∧
  decode 0x00000010 = .error (.unknownOpcode 0x10)

/-! The step, the host port and the busy protocol -/

/-- 20_memory.md R55, 00_scope.md R13: a step with nothing pending from the host runs the decoded command in flight; so does
one with a pending `wait`; with another access pending either the engine or the host moves (log 1). -/
def Obligations.StepRunsTheCommandInFlight : Prop :=
  ∀ (s : State) (c : InFlight) (i : Instr), s.inflight = some c → decode c.word = .ok i →
    (s.host = [] → step s = exec i s) ∧
    (∀ rest, s.host = .wait :: rest → step s = exec i s) ∧
    (∀ op rest, s.host = op :: rest → op ≠ .wait →
      step s = exec i { s with turns := s.turns + 1 } ∨
      step s = hostStep op { s with turns := s.turns + 1, host := rest })

/-- 30_encoding.md R69: a word that matches no row of the opcode map is issued like any command, and completes with
IllegalCommand, changing only the completion writes; OP from 0x10 on matches no row. The list `host` it is issued from is the
model's own (log 1, DESIGN CHOICE). -/
def Obligations.IllegalWordCompletesWithIllegalCommand : Prop :=
  (∀ (s : State) (w : Word), legalWord w = false → s.inflight = none → s.host = [.write .w32 0x008 w] →
    step s = .next { s with host := [], inflight := some ⟨w, s.regs⟩, done := false, err := false, errcode := 0 }) ∧
  (∀ (s : State) (c : InFlight), legalWord c.word = false → s.host = [] → s.inflight = some c →
    step s = .next { s with outlen := 0, errcode := 0x01, err := true, done := true, inflight := none }) ∧
  (∀ w : Word, 0x10 ≤ w.toNat % 256 → legalWord w = false)

/-- 60_exceptions.md R168: between commands the core is idle, and every state survives idleness. -/
def Obligations.IdleCoreKeepsEveryState : Prop :=
  ∀ s : State, s.host = [] → s.inflight = none → step s = .next s

/-- 20_memory.md R53: a host write of w to CMD while nothing is in flight issues w with the snapshot of the registers, clears
DONE, ERR and ERRCODE, and changes nothing else. The list `host` the write is taken from is the model's own (log 1, DESIGN
CHOICE). -/
def Obligations.CmdWriteIssuesWithSnapshot : Prop :=
  ∀ (s : State) (w : Word) (rest : List HostOp), s.inflight = none → s.host = .write .w32 0x008 w :: rest →
    step s = .next
      { s with
        host := rest
        inflight := some ⟨w, ⟨s.regs.ctrl, s.regs.src, s.regs.len, s.regs.dst, s.regs.src2, s.regs.len2⟩⟩
        done := false, err := false, errcode := 0 }

/-- 20_memory.md R56, R57: while BUSY, a defined host write is dropped and sets HAZ; a register read returns the current value;
a BUF read sets HAZ, and its value is free. That a reply goes to the list `replies` (log 11, DESIGN CHOICE) and that a free value
counts one draw (log 5) are the model's form. Accesses the bus does not define are the statement
BusErrorsAreExactlyTheUndefinedAccesses (log 7). -/
def Obligations.BusyWindowDropsWritesAndSetsHaz : Prop :=
  ∀ (s : State) (w : Width) (off : Nat) (v : Word), s.busy = true → definedAccess w off →
    hostWrite w off v s = .next { s with haz := true } ∧
    (off < 0x100 → hostRead w off s = .next { s with replies := .b32 (regRead s off) :: s.replies }) ∧
    (0x40000 ≤ off → ∃ r, hostRead w off s =
      .next { s with haz := true, draws := s.draws + 1, replies := r :: s.replies })

/-- 20_memory.md R43, R47, R48: the accesses that complete are exactly the defined ones; any other is a bus error. That an
undefined access is a bus error also while BUSY = 1, where R56 says that every host write is dropped and sets HAZ, is the
model's reading of R48 (log 7, DEDUCED), and so is that the step stops there. -/
def Obligations.BusErrorsAreExactlyTheUndefinedAccesses : Prop :=
  ∀ (s : State) (w : Width) (off : Nat) (v : Word),
    (definedAccess w off → (∃ t, hostRead w off s = .next t) ∧ ∃ t, hostWrite w off v s = .next t) ∧
    (¬ definedAccess w off → (∃ f, hostRead w off s = .fault f) ∧ ∃ f, hostWrite w off v s = .fault f)

/-- 10_state.md R17, R18, R32: ID reads its constant in every state, CMD and the reserved offsets read 0, BLKIDX_LO and
BLKIDX_HI are the halves of BLKIDX; writes to RO registers and reserved offsets are ignored. -/
def Obligations.ReservedAndReadOnlyOffsets : Prop :=
  ∀ (s : State) (v : Word),
    regRead s 0x000 = 0x43570007 ∧ regRead s 0x008 = 0 ∧
    regRead s 0x030 ++ regRead s 0x02C = s.blkidx ∧
    (∀ off, 0x034 ≤ off → regRead s off = 0 ∧ regWrite off v s = s) ∧
    regWrite 0x000 v s = s ∧ regWrite 0x010 v s = s ∧ regWrite 0x028 v s = s ∧ regWrite 0x02C v s = s ∧
    regWrite 0x030 v s = s

/-- 10_state.md R16, R19, R24, R26 to R30, 20_memory.md R49: while not busy, a host access to the register window reads and
writes the registers; a write of an RW register changes that register alone and reads back, CTRL without its reserved bits; a
STATUS write clears the W1C bits written as 1 and nothing else. The reply goes to the model's list (log 11). -/
def Obligations.RegisterWritesReadBack : Prop :=
  ∀ (s : State) (v : Word),
    (∀ off, s.busy = false → off < 0x100 → off % 4 = 0 →
      hostRead .w32 off s = .next { s with replies := .b32 (regRead s off) :: s.replies } ∧
      hostWrite .w32 off v s = .next (regWrite off v s)) ∧
    regWrite 0x004 v s = { s with regs := { s.regs with ctrl := v &&& 0x00013F77 } } ∧
    regWrite 0x014 v s = { s with regs := { s.regs with src := v } } ∧
    regWrite 0x018 v s = { s with regs := { s.regs with len := v } } ∧
    regWrite 0x01C v s = { s with regs := { s.regs with dst := v } } ∧
    regWrite 0x020 v s = { s with regs := { s.regs with src2 := v } } ∧
    regWrite 0x024 v s = { s with regs := { s.regs with len2 := v } } ∧
    regWrite 0x00C v s =
      { s with done := s.done && !v.getLsbD 1, err := s.err && !v.getLsbD 2, haz := s.haz && !v.getLsbD 3 } ∧
    (∀ off ∈ [0x014, 0x018, 0x01C, 0x020, 0x024], regRead (regWrite off v s) off = v) ∧
    regRead (regWrite 0x004 v s) 0x004 = v &&& 0x00013F77

/-- 10_state.md R24, R25, R31: the STATUS word bit by bit; it is what offset 0x00C reads, ERRCODE is read with zero bits above
it at 0x010, and OUTLEN at 0x028. -/
def Obligations.StatusWordFields : Prop :=
  ∀ s : State,
    regRead s 0x00C = statusWord s ∧ regRead s 0x010 = 0#24 ++ s.errcode ∧ regRead s 0x028 = s.outlen ∧
    (statusWord s).getLsbD 0 = s.inflight.isSome ∧ (statusWord s).getLsbD 1 = s.done ∧
    (statusWord s).getLsbD 2 = s.err ∧ (statusWord s).getLsbD 3 = s.haz ∧
    (statusWord s).getLsbD 4 = s.keyed ∧ (statusWord s).getLsbD 5 = s.ctxv ∧
    (statusWord s).getLsbD 6 = s.opact ∧ (statusWord s).getLsbD 7 = s.opdir ∧
    (statusWord s).getLsbD 8 = s.rc4k ∧ (statusWord s).getLsbD 9 = s.dhv ∧
    (statusWord s).getLsbD 10 = s.secv ∧ (statusWord s).extractLsb' 11 5 = 0 ∧
    (statusWord s).extractLsb' 16 8 =
      (if s.keyed then (match s.lalg with | .des => 8 | .tdes => 8 | .loki => 16) else 0) ∧
    (statusWord s).extractLsb' 24 8 = 0

/-- 20_memory.md R45: host accesses to BUF are little-endian at every width, and a write changes only the bytes it covers. -/
def Obligations.BufHostAccessesAreLittleEndian : Prop :=
  ∀ (s : State) (a : Nat) (v : Word), s.inflight = none →
    (a < Config.bufSize →
      hostRead .w8 (0x40000 + a) s = .next { s with replies := .b8 (bufByte s a) :: s.replies } ∧
      ∃ t, hostWrite .w8 (0x40000 + a) v s = .next t ∧ t = { s with mem := t.mem } ∧
        storedAt s t a [v.extractLsb' 0 8]) ∧
    (a < Config.bufSize → a % 2 = 0 →
      hostRead .w16 (0x40000 + a) s =
        .next { s with replies := .b16 (bufByte s (a + 1) ++ bufByte s a) :: s.replies } ∧
      ∃ t, hostWrite .w16 (0x40000 + a) v s = .next t ∧ t = { s with mem := t.mem } ∧
        storedAt s t a [v.extractLsb' 0 8, v.extractLsb' 8 8]) ∧
    (a < Config.bufSize → a % 4 = 0 →
      hostRead .w32 (0x40000 + a) s = .next
        { s with
          replies := .b32 (bufByte s (a + 3) ++ bufByte s (a + 2) ++ bufByte s (a + 1) ++ bufByte s a) :: s.replies } ∧
      ∃ t, hostWrite .w32 (0x40000 + a) v s = .next t ∧ t = { s with mem := t.mem } ∧
        storedAt s t a [v.extractLsb' 0 8, v.extractLsb' 8 8, v.extractLsb' 16 8, v.extractLsb' 24 8])

/-- A bound of the model's own (log 1, DESIGN CHOICE): a command in flight is over after at most one step more than the host
has accesses pending, unless a pending access meets a bus error. 20_memory.md R55 and 70_reset_and_hazards.md R179 say only that
a command in flight eventually completes, in a time that is unbounded but finite; the bound comes from the finite list of
accesses and the schedule that log 1 chooses. -/
def Obligations.InFlightCommandIsOverInBoundedSteps : Prop :=
  ∀ s : State, s.busy = true →
    ∃ k, k ≤ s.host.length + 1 ∧
      ((∃ f, core.run k s = .fault f) ∨ ∃ t : State, core.run k s = .next t ∧ t.inflight = none)

/-- 70_reset_and_hazards.md R169, R170: the reset input puts every piece of the spec's state into its reset value, a command in
flight or not; the model's own fields go on (log 12). At reset every register but ID reads 0 and IRQ is 0. -/
def Obligations.ResetInputGivesTheResetState : Prop :=
  (∀ s : State, hostStep .reset s = .next
    { State.reset with
      host := s.host, replies := s.replies, draws := s.draws, turns := s.turns, bufGen := s.bufGen + 1 }) ∧
  (∀ off, regRead State.reset off = if off = 0 then 0x43570007 else 0) ∧ irq State.reset = false

/-! The whole command set -/

/-- 20_memory.md R55, 60_exceptions.md R156: every command answers a next state in which nothing is in flight and DONE is set;
ERR is set exactly when ERRCODE is not 0, ERRCODE is 0 or one of the twelve codes, and on an error OUTLEN is 0. -/
def Obligations.EveryCommandCompletes : Prop :=
  ∀ (i : Instr) (s : State), ∃ t, exec i s = .next t ∧ t.inflight = none ∧ t.done = true ∧
    (t.err = true ↔ t.errcode ≠ 0) ∧ t.errcode.toNat ≤ 0x0C ∧ (t.err = true → t.outlen = 0)

/-- 60_exceptions.md R160, 00_scope.md R11: a failed command makes the completion writes, ends the operation if it decoded as
ENC, DEC or CTX, and changes nothing else. A word that fails to decode does not clear OPACT. -/
def Obligations.FailedCommandWritesNothingElse : Prop :=
  (∀ (i : Instr) (s t : State), exec i s = .next t → t.err = true →
    t.errcode ≠ 0 ∧
    t = { s with outlen := 0, errcode := t.errcode, err := true, done := true, inflight := none,
                 opact := s.opact && !endsOperation i }) ∧
  (∀ (s : State) (c : InFlight) (e : DecodeReject), s.inflight = some c → decode c.word = .error e →
    engineStep s = .next { s with outlen := 0, errcode := 0x01, err := true, done := true, inflight := none })

/-- 60_exceptions.md R163: IRQ is IRQEN ∧ DONE; every completion, failed or not, raises it exactly when CTRL.IRQEN = 1;
clearing DONE, the next issue and IRQEN = 0 lower it; it is 0 at reset. -/
def Obligations.CompletionRaisesIrqWhenEnabled : Prop :=
  (∀ s : State, irq s = (s.regs.ctrl.getLsbD 16 && s.done)) ∧
  (∀ (i : Instr) (s t : State), exec i s = .next t → irq t = s.regs.ctrl.getLsbD 16) ∧
  (∀ (s : State) (c : InFlight) (e : DecodeReject), s.inflight = some c → decode c.word = .error e →
    ∃ t, engineStep s = .next t ∧ irq t = s.regs.ctrl.getLsbD 16) ∧
  (∀ (s : State) (v : Word), v.getLsbD 1 = true → irq (regWrite 0x00C v s) = false) ∧
  (∀ (s : State) (w : Word), irq (regWrite 0x008 w s) = false) ∧
  (∀ (s : State) (v : Word), v.getLsbD 16 = false → irq (regWrite 0x004 v s) = false) ∧
  irq State.reset = false

/-- 10_state.md R14, R33: no command writes CTRL or an operand register; only SRST clears HAZ and no command sets it. The
host's list, its replies and the model's other host-side fields are untouched. -/
def Obligations.NoCommandWritesTheHostsRegisters : Prop :=
  ∀ (i : Instr) (s t : State), exec i s = .next t →
    t.regs = s.regs ∧ t.haz = (if i = .srst then false else s.haz) ∧
    t.host = s.host ∧ t.replies = s.replies ∧ t.turns = s.turns ∧ t.bufGen = s.bufGen

/-- 10_state.md R37, 41_rc4.md R105, 44_dh_modexp.md, 70_reset_and_hazards.md R176: each unit's state changes only under that
unit's commands, and other commands do not disturb an operation. -/
def Obligations.UnitsAreSeparate : Prop :=
  ∀ (i : Instr) (s t : State), exec i s = .next t →
    (i ≠ .rc4key → i ≠ .rc4 → i ≠ .srst →
      t.rc4k = s.rc4k ∧ t.rcS = s.rcS ∧ t.rcI = s.rcI ∧ t.rcJ = s.rcJ) ∧
    (i ≠ .dhi → i ≠ .dhr → i ≠ .srst →
      t.dhv = s.dhv ∧ t.dhp = s.dhp ∧ t.dhg = s.dhg ∧ t.plen = s.plen ∧ t.dhx = s.dhx ∧ t.dhy = s.dhy ∧
      (i ≠ .dhs → t.secv = s.secv ∧ t.sreg = s.sreg)) ∧
    (i ≠ .key → i ≠ .srst → t.keyed = s.keyed ∧ t.lalg = s.lalg ∧ t.key = s.key ∧ t.sched = s.sched) ∧
    (i ≠ .key → i ≠ .ctx → i ≠ .srst →
      t.ctxv = s.ctxv ∧ t.lmode = s.lmode ∧ t.lpad = s.lpad ∧ t.lctrle = s.lctrle ∧ t.iv = s.iv ∧
      (isChunk i = false → t.opact = s.opact)) ∧
    (isChunk i = false → i ≠ .srst →
      t.opdir = s.opdir ∧ t.fb = s.fb ∧ t.pp = s.pp ∧ t.pcr = s.pcr ∧ t.blkidx = s.blkidx)

/-- 10_state.md R42, 20_memory.md R52, 60_exceptions.md R164: no host access reads the hidden state: with other hidden contents
every host step answers the same replies, faults alike and keeps the difference hidden. -/
def Obligations.HiddenStateHasNoReadPath : Prop :=
  ∀ (h : Hidden) (op : HostOp) (s : State),
    (∀ t, hostStep op s = .next t → ∃ t', hostStep op (withHidden h s) = .next t' ∧
      t'.replies = t.replies ∧ t' = if op = .reset then t else withHidden h t) ∧
    (∀ f, hostStep op s = .fault f → hostStep op (withHidden h s) = .fault f)

/-- 10_state.md R38, 20_memory.md R52: of all commands only DHS computes with the private exponent. With another DHX before any
other command, the state after it is the same but for DHX itself, and the same in DHX too when the command replaces it: SRST,
and DHI and DHR when they succeed. -/
def Obligations.PrivateExponentActsOnlyThroughDhs : Prop :=
  ∀ (i : Instr) (s : State) (x : BitVec 256), i ≠ .dhs →
    ∃ t t', exec i s = .next t ∧ exec i { s with dhx := x } = .next t' ∧
      (i = .srst ∨ ((i = .dhi ∨ i = .dhr) ∧ t.err = false) → t' = t) ∧
      (¬ (i = .srst ∨ ((i = .dhi ∨ i = .dhr) ∧ t.err = false)) → t' = { t with dhx := x })

/-! The commands: errors in the order of the rule, and the effect when every check passes -/

/-- 45_system.md R151: NOP. -/
def Obligations.NopCommand : Prop :=
  (∀ w : Word, decode w = .ok .nop ↔ w = 0x00000000) ∧
  ∀ s : State, exec .nop s =
    .next { s with outlen := 0, errcode := 0, err := false, done := true, inflight := none }

/-- 45_system.md R152: SRST. Every unit and HAZ take their reset values; CTRL, the operand registers and BUF stay. The form of
the schedule at reset (log 8) and that the model's own fields stay (logs 1, 4, 6, 11) are the model's choice (DESIGN CHOICE). -/
def Obligations.SrstCommand : Prop :=
  encode .srst = 0x0000000F ∧
  ∀ s : State, exec .srst s = .next
    { State.reset with
      regs := s.regs, mem := s.mem, done := true,
      host := s.host, replies := s.replies, draws := s.draws, turns := s.turns, bufGen := s.bufGen }

/-- 40_block_ciphers.md R100: KEY. -/
def Obligations.KeyCommand : Prop :=
  encode .key = 0x00000001 ∧
  (∀ (s : State) (e : Byte), e =
      (if 2 < s.operands.algCode.toNat then 0x07
       else if (s.operands.algCode = 0 ∧ s.operands.lenN ≠ 8) ∨ (s.operands.algCode = 1 ∧ s.operands.lenN ≠ 24) ∨
          (s.operands.algCode = 2 ∧ s.operands.lenN ≠ 16 ∧ s.operands.lenN ≠ 24 ∧ s.operands.lenN ≠ 32) then 0x02
       else if Config.bufSize < s.operands.srcN + s.operands.lenN then 0x0B
       else 0x00) →
    e ≠ 0x00 → failsWith .key e s) ∧
  (∀ (s : State) (a : Alg),
    (s.operands.algCode = 0 ∧ s.operands.lenN = 8 ∧ a = .des) ∨
    (s.operands.algCode = 1 ∧ s.operands.lenN = 24 ∧ a = .tdes) ∨
    (s.operands.algCode = 2 ∧ (s.operands.lenN = 16 ∨ s.operands.lenN = 24 ∨ s.operands.lenN = 32) ∧ a = .loki) →
    s.operands.srcN + s.operands.lenN ≤ Config.bufSize →
    exec .key s = .next
      { s with
        key := bufRead s s.operands.srcN s.operands.lenN, lalg := a, keyed := true
        sched := scheduleOf a (bufRead s s.operands.srcN s.operands.lenN)
        ctxv := false, iv := none, opact := false
        outlen := 0, errcode := 0, err := false, done := true, inflight := none })

/-- 43_modes.md R121: CTX. -/
def Obligations.CtxCommand : Prop :=
  encode .ctx = 0x00000002 ∧
  (∀ (s : State) (e : Byte), e =
      (if s.keyed = false then 0x0A
       else if s.operands.modeCode = 7 then 0x05
       else if 3 < s.operands.padCode.toNat then 0x06
       else if s.operands.modeCode = 0 then (if s.operands.ivp then 0x03 else 0x00)
       else if s.operands.ivp = false ∨ s.operands.len2N ≠ s.blockSize then 0x03
       else if Config.bufSize < s.operands.src2N + s.blockSize then 0x0B
       else 0x00) →
    e ≠ 0x00 → failsWith .ctx e s) ∧
  (∀ (s : State) (p : Scheme), s.keyed = true → schemeOf s.operands.padCode = some p →
    s.operands.modeCode = 0 → s.operands.ivp = false →
    exec .ctx s = .next
      { s with
        iv := none, lmode := .ecb, lpad := p, lctrle := s.operands.ctrle, ctxv := true, opact := false
        outlen := 0, errcode := 0, err := false, done := true, inflight := none }) ∧
  (∀ (s : State) (m : Mode) (p : Scheme), s.keyed = true → schemeOf s.operands.padCode = some p →
    modeOf s.operands.modeCode = some m → m ≠ .ecb → s.operands.ivp = true → s.operands.len2N = s.blockSize →
    s.operands.src2N + s.blockSize ≤ Config.bufSize →
    exec .ctx s = .next
      { s with
        iv := some (bufRead s s.operands.src2N s.blockSize), lmode := m, lpad := p, lctrle := s.operands.ctrle
        ctxv := true, opact := false
        outlen := 0, errcode := 0, err := false, done := true, inflight := none })

/-- 40_block_ciphers.md R101, R102: ENCB and DECB. The schedule is that of the held key, an invariant of the model
(`cipherInv`). -/
def Obligations.EncbAndDecbCommands : Prop :=
  encode .encb = 0x00000003 ∧ encode .decb = 0x00000004 ∧
  (∀ (s : State) (e : Byte), e =
      (if s.keyed = false then 0x0A
       else if s.operands.lenN ≠ s.blockSize then 0x04
       else if Config.bufSize < s.operands.srcN + s.blockSize ∨
          Config.bufSize < s.operands.dstN + s.blockSize then 0x0B
       else 0x00) →
    e ≠ 0x00 → failsWith .encb e s ∧ failsWith .decb e s) ∧
  (∀ s : State, cipherInv s → s.keyed = true → s.operands.lenN = s.blockSize →
    s.operands.srcN + s.blockSize ≤ Config.bufSize → s.operands.dstN + s.blockSize ≤ Config.bufSize →
    (∃ t, exec .encb s = .next t ∧
      t = { s with mem := t.mem, outlen := BitVec.ofNat 32 s.blockSize, errcode := 0, err := false, done := true,
                   inflight := none } ∧
      (encryptBlock s.sched (bufRead s s.operands.srcN s.blockSize)).length = s.blockSize ∧
      storedAt s t s.operands.dstN (encryptBlock s.sched (bufRead s s.operands.srcN s.blockSize))) ∧
    (∃ t, exec .decb s = .next t ∧
      t = { s with mem := t.mem, outlen := BitVec.ofNat 32 s.blockSize, errcode := 0, err := false, done := true,
                   inflight := none } ∧
      (decryptBlock s.sched (bufRead s s.operands.srcN s.blockSize)).length = s.blockSize ∧
      storedAt s t s.operands.dstN (decryptBlock s.sched (bufRead s s.operands.srcN s.blockSize))))

/-- 43_modes.md R134, R123 to R125: ENC. The chunk starts from the IV after BEGIN, else from the registers as they stand; only
the LAST chunk of a block mode is padded. That the filler of ISO10126 is `drawBytes` at the counter `draws`, and that a filler of
n bytes counts as n draws, is the model's form of a draw (log 6, DESIGN CHOICE). -/
def Obligations.EncCommand : Prop :=
  (∀ lf bf : Bool, encode (.enc lf bf) &&& 0xFFFFFCFF = 0x00000005) ∧
  (∀ (lf bf : Bool) (s : State) (e : Byte), e =
      (if s.ctxv = false then 0x0A
       else if bf = false ∧ (s.opact = false ∨ s.opdir = true) then 0x0A
       else if lf = false ∧ s.operands.lenN % s.blockSize ≠ 0 then 0x08
       else if Config.bufSize < s.operands.srcN + s.operands.lenN ∨
          Config.bufSize < s.operands.dstN + (s.operands.lenN +
            if s.lmode.isBlock = true ∧ lf = true then padLen s.lpad s.operands.lenN s.blockSize else 0) then 0x0B
       else 0x00) →
    e ≠ 0x00 → failsWith (.enc lf bf) e s) ∧
  (∀ (lf bf : Bool) (s : State) (pad : Nat) (x : Bytes) (out : Bytes × OpRegs) (z : Bytes),
    cipherInv s → s.ctxv = true → (bf = true ∨ (s.opact = true ∧ s.opdir = false)) →
    (lf = true ∨ s.operands.lenN % s.blockSize = 0) →
    pad = (if s.lmode.isBlock = true ∧ lf = true then padLen s.lpad s.operands.lenN s.blockSize else 0) →
    s.operands.srcN + s.operands.lenN ≤ Config.bufSize →
    s.operands.dstN + (s.operands.lenN + pad) ≤ Config.bufSize →
    x = (if s.lmode.isBlock = true ∧ lf = true
      then padBytes s.lpad (bufRead s s.operands.srcN s.operands.lenN) s.blockSize
        (drawBytes s.draws (padDraws s.lpad s.operands.lenN s.blockSize))
      else bufRead s s.operands.srcN s.operands.lenN) →
    z = s.iv.getD (List.replicate s.blockSize 0) →
    out = runChunk s.sched ⟨s.lmode, z, s.lctrle, s.blockSize⟩ false
      (if bf then ⟨z, z, z, 0⟩ else ⟨s.fb, s.pp, s.pcr, s.blkidx⟩) x →
    out.1.length = s.operands.lenN + pad ∧
    ∃ t, exec (.enc lf bf) s = .next t ∧
      t = { s with
            mem := t.mem
            fb := out.2.fb, pp := out.2.pp, pcr := out.2.pcr, blkidx := out.2.blk
            opact := !lf, opdir := false
            draws := s.draws + (if s.lmode.isBlock = true ∧ lf = true
              then padDraws s.lpad s.operands.lenN s.blockSize else 0)
            outlen := BitVec.ofNat 32 (s.operands.lenN + pad), errcode := 0, err := false, done := true
            inflight := none } ∧
      storedAt s t s.operands.dstN out.1)

/-- 43_modes.md R135, R123 to R125: DEC. Only the LAST chunk of a block mode is unpadded, by its own output. -/
def Obligations.DecCommand : Prop :=
  (∀ lf bf : Bool, encode (.dec lf bf) &&& 0xFFFFFCFF = 0x00000006) ∧
  (∀ (lf bf : Bool) (s : State) (e : Byte), e =
      (if s.ctxv = false then 0x0A
       else if bf = false ∧ (s.opact = false ∨ s.opdir = false) then 0x0A
       else if (s.lmode.isBlock = true ∨ lf = false) ∧ s.operands.lenN % s.blockSize ≠ 0 then 0x08
       else if Config.bufSize < s.operands.srcN + s.operands.lenN ∨
          Config.bufSize < s.operands.dstN + s.operands.lenN then 0x0B
       else 0x00) →
    e ≠ 0x00 → failsWith (.dec lf bf) e s) ∧
  (∀ (lf bf : Bool) (s : State) (out : Bytes × OpRegs) (z y : Bytes),
    cipherInv s → s.ctxv = true → (bf = true ∨ (s.opact = true ∧ s.opdir = true)) →
    ((s.lmode.isBlock = false ∧ lf = true) ∨ s.operands.lenN % s.blockSize = 0) →
    s.operands.srcN + s.operands.lenN ≤ Config.bufSize → s.operands.dstN + s.operands.lenN ≤ Config.bufSize →
    z = s.iv.getD (List.replicate s.blockSize 0) →
    out = runChunk s.sched ⟨s.lmode, z, s.lctrle, s.blockSize⟩ true
      (if bf then ⟨z, z, z, 0⟩ else ⟨s.fb, s.pp, s.pcr, s.blkidx⟩)
      (bufRead s s.operands.srcN s.operands.lenN) →
    y = (if s.lmode.isBlock = true ∧ lf = true then unpadBytes s.lpad out.1 s.blockSize else out.1) →
    y.length ≤ s.operands.lenN ∧ out.1.length = s.operands.lenN ∧
    ∃ t, exec (.dec lf bf) s = .next t ∧
      t = { s with
            mem := t.mem
            fb := out.2.fb, pp := out.2.pp, pcr := out.2.pcr, blkidx := out.2.blk
            opact := !lf, opdir := true
            outlen := BitVec.ofNat 32 y.length, errcode := 0, err := false, done := true, inflight := none } ∧
      storedAt s t s.operands.dstN y)

/-- 42_padding.md R118, R107: PAD. That the filler is `drawBytes` at the counter `draws`, and that a filler of n bytes counts as
n draws, is the model's form of a draw (log 6, DESIGN CHOICE); so is what the statement says of a block size above 255, which no
word carries (log 13, DESIGN CHOICE). -/
def Obligations.PadCommand : Prop :=
  (∀ bs : Nat, encode (.pad bs) &&& 0xFF00FFFF = 0x00000007) ∧
  (∀ (bs : Nat) (s : State) (e : Byte), e =
      (if 3 < s.operands.padCode.toNat then 0x06
       else if bs = 0 then 0x04
       else if Config.bufSize < s.operands.srcN + s.operands.lenN ∨
          Config.bufSize < s.operands.dstN + s.operands.lenN +
            (if s.operands.padCode = 0 ∧ s.operands.lenN % bs = 0 then 0 else bs - s.operands.lenN % bs) then 0x0B
       else 0x00) →
    e ≠ 0x00 → failsWith (.pad bs) e s) ∧
  (∀ (bs : Nat) (s : State) (sch : Scheme) (n : Nat) (out : Bytes), schemeOf s.operands.padCode = some sch → bs ≠ 0 →
    n = s.operands.lenN + padLen sch s.operands.lenN bs →
    s.operands.srcN + s.operands.lenN ≤ Config.bufSize → s.operands.dstN + n ≤ Config.bufSize →
    out = padBytes sch (bufRead s s.operands.srcN s.operands.lenN) bs
      (drawBytes s.draws (padDraws sch s.operands.lenN bs)) →
    out.length = n ∧
    ∃ t, exec (.pad bs) s = .next t ∧
      t = { s with mem := t.mem, draws := s.draws + padDraws sch s.operands.lenN bs, outlen := BitVec.ofNat 32 n
                   errcode := 0, err := false, done := true, inflight := none } ∧
      storedAt s t s.operands.dstN out)

/-- 42_padding.md R119: UNPAD. What the statement says of a block size above 255, which no word carries, is the model's (log 13,
DESIGN CHOICE). -/
def Obligations.UnpadCommand : Prop :=
  (∀ bs : Nat, encode (.unpad bs) &&& 0xFF00FFFF = 0x00000008) ∧
  (∀ (bs : Nat) (s : State) (e : Byte), e =
      (if 3 < s.operands.padCode.toNat then 0x06
       else if bs = 0 then 0x04
       else if Config.bufSize < s.operands.srcN + s.operands.lenN ∨
          Config.bufSize < s.operands.dstN + s.operands.lenN then 0x0B
       else 0x00) →
    e ≠ 0x00 → failsWith (.unpad bs) e s) ∧
  (∀ (bs : Nat) (s : State) (sch : Scheme) (out : Bytes), schemeOf s.operands.padCode = some sch → bs ≠ 0 →
    s.operands.srcN + s.operands.lenN ≤ Config.bufSize → s.operands.dstN + s.operands.lenN ≤ Config.bufSize →
    out = unpadBytes sch (bufRead s s.operands.srcN s.operands.lenN) bs →
    out.length ≤ s.operands.lenN ∧
    ∃ t, exec (.unpad bs) s = .next t ∧
      t = { s with mem := t.mem, outlen := BitVec.ofNat 32 out.length, errcode := 0, err := false, done := true
                   inflight := none } ∧
      storedAt s t s.operands.dstN out)

/-- 41_rc4.md R105: RC4KEY. -/
def Obligations.Rc4keyCommand : Prop :=
  encode .rc4key = 0x00000009 ∧
  (∀ (s : State) (e : Byte), e =
      (if s.operands.lenN = 0 ∨ 256 < s.operands.lenN then 0x02
       else if Config.bufSize < s.operands.srcN + s.operands.lenN then 0x0B
       else 0x00) →
    e ≠ 0x00 → failsWith .rc4key e s) ∧
  (∀ s : State, 1 ≤ s.operands.lenN → s.operands.lenN ≤ 256 →
    s.operands.srcN + s.operands.lenN ≤ Config.bufSize →
    exec .rc4key s = .next
      { s with
        rcS := ksa (bufRead s s.operands.srcN s.operands.lenN), rcI := 0, rcJ := 0, rc4k := true
        outlen := 0, errcode := 0, err := false, done := true, inflight := none })

/-- 41_rc4.md R106: RC4. -/
def Obligations.Rc4Command : Prop :=
  encode .rc4 = 0x0000000A ∧
  (∀ (s : State) (e : Byte), e =
      (if s.rc4k = false then 0x0A
       else if Config.bufSize < s.operands.srcN + s.operands.lenN ∨
          Config.bufSize < s.operands.dstN + s.operands.lenN then 0x0B
       else 0x00) →
    e ≠ 0x00 → failsWith .rc4 e s) ∧
  (∀ (s : State) (out : Bytes × Rc4State), s.rc4k = true →
    s.operands.srcN + s.operands.lenN ≤ Config.bufSize → s.operands.dstN + s.operands.lenN ≤ Config.bufSize →
    out = rc4Process ⟨s.rcS, s.rcI, s.rcJ⟩ (bufRead s s.operands.srcN s.operands.lenN) →
    out.1.length = s.operands.lenN ∧
    ∃ t, exec .rc4 s = .next t ∧
      t = { s with
            mem := t.mem, rcS := out.2.s, rcI := out.2.i, rcJ := out.2.j
            outlen := s.operands.len, errcode := 0, err := false, done := true, inflight := none } ∧
      storedAt s t s.operands.dstN out.1)

/-- 44_dh_modexp.md R142, R141: DHI. The exponent is the state's next free draw, which lies in its interval; that it is
`drawExponent` at the counter `draws`, and counts as one draw, is the model's form of a draw (log 6, DESIGN CHOICE). -/
def Obligations.DhiCommand : Prop :=
  encode .dhi = 0x0000000B ∧
  (∀ s : State, Config.bufSize < s.operands.dstN + 192 → failsWith .dhi 0x0B s) ∧
  (∀ s : State, s.operands.dstN + 192 ≤ Config.bufSize →
    ∃ (x : BitVec 256) (y : Nat) (t : State), x = drawExponent s.draws ∧ 1 ≤ x.toNat ∧ x.toNat ≤ 2 ^ 255 - 1 ∧
      y = 2 ^ x.toNat % group5Prime ∧ exec .dhi s = .next t ∧
      t = { s with
            mem := t.mem
            dhp := group5Prime, dhg := 2, plen := 192, dhx := x, dhy := y, dhv := true, secv := false, sreg := 0
            draws := s.draws + 1
            outlen := 192, errcode := 0, err := false, done := true, inflight := none } ∧
      storedAt s t s.operands.dstN (toBE 192 y))

/-- 44_dh_modexp.md R143, R141: DHR. The exponent is the state's next free draw, which lies in its interval; that it is
`drawExponent` at the counter `draws`, and counts as one draw, is the model's form of a draw (log 6, DESIGN CHOICE). -/
def Obligations.DhrCommand : Prop :=
  encode .dhr = 0x0000000C ∧
  (∀ (s : State) (e : Byte), e =
      (if s.operands.lenN = 0 ∨ 256 < s.operands.lenN ∨ 256 < s.operands.len2N then 0x08
       else if Config.bufSize < s.operands.srcN + s.operands.lenN ∨
          Config.bufSize < s.operands.src2N + s.operands.len2N ∨
          Config.bufSize < s.operands.dstN + s.operands.lenN then 0x0B
       else if beNat (bufRead s s.operands.srcN s.operands.lenN) < 3 then 0x0C
       else 0x00) →
    e ≠ 0x00 → failsWith .dhr e s) ∧
  (∀ (s : State) (p g : Nat), 1 ≤ s.operands.lenN → s.operands.lenN ≤ 256 → s.operands.len2N ≤ 256 →
    s.operands.srcN + s.operands.lenN ≤ Config.bufSize → s.operands.src2N + s.operands.len2N ≤ Config.bufSize →
    s.operands.dstN + s.operands.lenN ≤ Config.bufSize →
    p = beNat (bufRead s s.operands.srcN s.operands.lenN) → g = beNat (bufRead s s.operands.src2N s.operands.len2N) →
    3 ≤ p →
    ∃ (x : BitVec 256) (y : Nat) (t : State), x = drawExponent s.draws ∧ 1 ≤ x.toNat ∧ x.toNat ≤ 2 ^ 255 - 1 ∧
      y = g ^ x.toNat % p ∧ exec .dhr s = .next t ∧
      t = { s with
            mem := t.mem
            dhp := p, dhg := g, plen := s.operands.lenN, dhx := x, dhy := y, dhv := true, secv := false, sreg := 0
            draws := s.draws + 1
            outlen := s.operands.len, errcode := 0, err := false, done := true, inflight := none } ∧
      storedAt s t s.operands.dstN (toBE s.operands.lenN y))

/-- 44_dh_modexp.md R144: DHS. -/
def Obligations.DhsCommand : Prop :=
  encode .dhs = 0x0000000D ∧
  (∀ (s : State) (e : Byte), e =
      (if s.dhv = false then 0x0A
       else if 256 < s.operands.lenN then 0x08
       else if Config.bufSize < s.operands.srcN + s.operands.lenN ∨ Config.bufSize < s.operands.dstN + s.plen then 0x0B
       else 0x00) →
    e ≠ 0x00 → failsWith .dhs e s) ∧
  (∀ (s : State) (sec : Nat), s.dhv = true → s.operands.lenN ≤ 256 →
    s.operands.srcN + s.operands.lenN ≤ Config.bufSize → s.operands.dstN + s.plen ≤ Config.bufSize →
    sec = beNat (bufRead s s.operands.srcN s.operands.lenN) ^ s.dhx.toNat % s.dhp →
    ∃ t, exec .dhs s = .next t ∧
      t = { s with
            mem := t.mem, sreg := sec, secv := true
            outlen := BitVec.ofNat 32 s.plen, errcode := 0, err := false, done := true, inflight := none } ∧
      storedAt s t s.operands.dstN (toBE s.plen sec))

/-- 44_dh_modexp.md R145: DHK. -/
def Obligations.DhkCommand : Prop :=
  encode .dhk = 0x0000000E ∧
  (∀ (s : State) (e : Byte), e =
      (if s.secv = false then 0x0A
       else if 32 < s.operands.lenN then 0x09
       else if Config.bufSize < s.operands.dstN + s.operands.lenN then 0x0B
       else 0x00) →
    e ≠ 0x00 → failsWith .dhk e s) ∧
  (∀ (s : State) (out : Bytes), s.secv = true → s.operands.lenN ≤ 32 →
    s.operands.dstN + s.operands.lenN ≤ Config.bufSize →
    out = (sha256 (if s.operands.kdfle then (tcBytes s.sreg).reverse else tcBytes s.sreg)).take s.operands.lenN →
    out.length = s.operands.lenN ∧
    ∃ t, exec .dhk s = .next t ∧
      t = { s with mem := t.mem, outlen := s.operands.len, errcode := 0, err := false, done := true
                   inflight := none } ∧
      storedAt s t s.operands.dstN out)

/-! The algorithms -/

/-- 40_block_ciphers.md R73, R86, R89, R98: D inverts E and E inverts D, for every cipher, key and block. -/
def Obligations.BlockCipherIsInverted : Prop :=
  ∀ (a : Alg) (key x : Bytes), x.length = a.blockSize →
    decryptBlock (scheduleOf a key) (encryptBlock (scheduleOf a key) x) = x ∧
    encryptBlock (scheduleOf a key) (decryptBlock (scheduleOf a key) x) = x

/-- 40_block_ciphers.md R99: every LOKI97 key gives the same subkeys, so E and D do not depend on the key. -/
def Obligations.LokiIsKeyIndependent : Prop :=
  ∀ k1 k2 x : Bytes, Alg.legalKeyLength .loki k1.length = true → Alg.legalKeyLength .loki k2.length = true →
    lokiSubkeys k1 = lokiSubkeys k2 ∧
    encryptBlock (scheduleOf .loki k1) x = encryptBlock (scheduleOf .loki k2) x ∧
    decryptBlock (scheduleOf .loki k1) x = decryptBlock (scheduleOf .loki k2) x

/-- 40_block_ciphers.md R83: two DES keys that differ only in the parity bits (bit 0 of each byte) give the same schedule. -/
def Obligations.DesParityBitsAreIgnored : Prop :=
  ∀ k1 k2 : Bytes, k1.length = 8 → k2.length = 8 →
    (∀ n, n < 8 → k1.getD n 0 >>> 1 = k2.getD n 0 >>> 1) → desSubkeys k1 = desSubkeys k2

/-- 41_rc4.md R106: processing a ‖ b in one command gives the output and the state of a and then b; and processing the output
from the same starting state gives the input back. -/
def Obligations.Rc4StreamLaws : Prop :=
  ∀ (r : Rc4State) (a b : Bytes),
    (rc4Process r (a ++ b)).1 = (rc4Process r a).1 ++ (rc4Process (rc4Process r a).2 b).1 ∧
    (rc4Process r (a ++ b)).2 = (rc4Process (rc4Process r a).2 b).2 ∧
    (rc4Process r (rc4Process r a).1).1 = a

/-- 42_padding.md R117: unpadding undoes padding for every scheme but Zeros, whatever filler is drawn; for Zeros exactly when
the data is empty or does not end in 0x00. -/
def Obligations.UnpadUndoesPad : Prop :=
  ∀ (sch : Scheme) (data filler : Bytes) (bs : Nat), 1 ≤ bs → bs ≤ 255 →
    filler.length = padDraws sch data.length bs →
    (sch ≠ .zeros → unpadBytes sch (padBytes sch data bs filler) bs = data) ∧
    (sch = .zeros → (unpadBytes sch (padBytes sch data bs filler) bs = data ↔ data.getLast? ≠ some 0)) ∧
    (padBytes sch data bs filler).length % bs = 0

/-- 43_modes.md R126 to R132: one block in each mode, in both directions, and the count of blocks. -/
def Obligations.ModeBlockRules : Prop :=
  ∀ (k : KeySchedule) (iv : Bytes) (le : Bool) (b : Nat) (r : OpRegs) (x : Bytes),
    (opBlock k ⟨.ecb, iv, le, b⟩ false r x = (encryptBlock k x, { r with blk := r.blk + 1 }) ∧
     opBlock k ⟨.ecb, iv, le, b⟩ true r x = (decryptBlock k x, { r with blk := r.blk + 1 })) ∧
    (opBlock k ⟨.cbc, iv, le, b⟩ false r x =
      (encryptBlock k (xorBytes x r.fb), { r with fb := encryptBlock k (xorBytes x r.fb), blk := r.blk + 1 }) ∧
     opBlock k ⟨.cbc, iv, le, b⟩ true r x =
      (xorBytes (decryptBlock k x) r.fb, { r with fb := x, blk := r.blk + 1 })) ∧
    (opBlock k ⟨.pcbc, iv, le, b⟩ false r x =
      (encryptBlock k (xorBytes x (xorBytes r.pp r.pcr)),
        { r with pp := x, pcr := encryptBlock k (xorBytes x (xorBytes r.pp r.pcr)), blk := r.blk + 1 }) ∧
     opBlock k ⟨.pcbc, iv, le, b⟩ true r x =
      (xorBytes (decryptBlock k x) (xorBytes r.pp r.pcr),
        { r with pp := xorBytes (decryptBlock k x) (xorBytes r.pp r.pcr), pcr := x, blk := r.blk + 1 })) ∧
    (opBlock k ⟨.cfb, iv, le, b⟩ false r x =
      (xorBytes x ((encryptBlock k r.fb).take x.length),
        { r with
          fb := xorBytes x ((encryptBlock k r.fb).take x.length) ++
            List.replicate (b - (xorBytes x ((encryptBlock k r.fb).take x.length)).length) 0
          blk := r.blk + 1 }) ∧
     opBlock k ⟨.cfb, iv, le, b⟩ true r x =
      (xorBytes x ((encryptBlock k r.fb).take x.length),
        { r with fb := x ++ List.replicate (b - x.length) 0, blk := r.blk + 1 })) ∧
    (∀ dir, opBlock k ⟨.ofb, iv, le, b⟩ dir r x =
      (xorBytes x ((encryptBlock k r.fb).take x.length), { r with fb := encryptBlock k r.fb, blk := r.blk + 1 })) ∧
    (∀ dir, opBlock k ⟨.ctr, iv, le, b⟩ dir r x =
      (xorBytes x ((encryptBlock k
        (if le then iv.take (b - 8) ++ toLE 8 ((leNat (iv.drop (b - 8)) + r.blk.toNat) % 2 ^ 64)
         else iv.take (b - 8) ++ toBE 8 ((beNat (iv.drop (b - 8)) + r.blk.toNat) % 2 ^ 64))).take x.length),
        { r with blk := r.blk + 1 })) ∧
    (opBlock k ⟨.randomDelta, iv, le, b⟩ false r x =
      (encryptBlock k (xorBytes x (rdPrng (BitVec.ofNat 32 (leNat (iv.take 4)) ^^^ BitVec.ofNat 32 r.blk.toNat) b)),
        { r with blk := r.blk + 1 }) ∧
     opBlock k ⟨.randomDelta, iv, le, b⟩ true r x =
      (xorBytes (decryptBlock k x) (rdPrng (BitVec.ofNat 32 (leNat (iv.take 4)) ^^^ BitVec.ofNat 32 r.blk.toNat) b),
        { r with blk := r.blk + 1 }))

/-- 43_modes.md R136: in every mode decryption of a chunk undoes its encryption from the same starting registers, and leaves
the same registers. Block modes take whole blocks; stream modes any length. -/
def Obligations.DecryptionUndoesEncryptionInEveryMode : Prop :=
  ∀ (a : Alg) (key iv x : Bytes) (m : Mode) (le : Bool) (r : OpRegs) (c : ModeCtx),
    c = ⟨m, iv, le, a.blockSize⟩ → iv.length = a.blockSize →
    r.fb.length = a.blockSize → r.pp.length = a.blockSize → r.pcr.length = a.blockSize →
    (m.isBlock = true → x.length % a.blockSize = 0) →
    runChunk (scheduleOf a key) c true r (runChunk (scheduleOf a key) c false r x).1 =
      (x, (runChunk (scheduleOf a key) c false r x).2)

/-- 43_modes.md R136: splitting a chunk at a multiple of B gives the same output and final registers as one chunk, in every
mode and direction. -/
def Obligations.ChunkingDoesNotMatter : Prop :=
  ∀ (k : KeySchedule) (c : ModeCtx) (dir : Bool) (r : OpRegs) (x y : Bytes), 0 < c.b → x.length % c.b = 0 →
    runChunk k c dir r (x ++ y) =
      ((runChunk k c dir r x).1 ++ (runChunk k c dir (runChunk k c dir r x).2 y).1,
        (runChunk k c dir (runChunk k c dir r x).2 y).2)

/-- 43_modes.md R136: in OFB and CTR, encryption and decryption of a chunk are the same function of the same starting
registers. -/
def Obligations.OfbAndCtrAreSymmetric : Prop :=
  ∀ (k : KeySchedule) (c : ModeCtx) (r : OpRegs) (x : Bytes), c.mode = .ofb ∨ c.mode = .ctr →
    runChunk k c true r x = runChunk k c false r x

/-- 43_modes.md R127: after a CBC chunk of whole blocks, in either direction, the feedback register is the last ciphertext
block. -/
def Obligations.CbcFeedbackIsTheLastCiphertextBlock : Prop :=
  ∀ (a : Alg) (key iv x : Bytes) (le : Bool) (r : OpRegs) (n : Nat), x.length = (n + 1) * a.blockSize →
    (runChunk (scheduleOf a key) ⟨.cbc, iv, le, a.blockSize⟩ false r x).2.fb =
      (runChunk (scheduleOf a key) ⟨.cbc, iv, le, a.blockSize⟩ false r x).1.drop (n * a.blockSize) ∧
    (runChunk (scheduleOf a key) ⟨.cbc, iv, le, a.blockSize⟩ true r x).2.fb = x.drop (n * a.blockSize)

/-- 44_dh_modexp.md R139: the modular-exponentiation engine is exact. -/
def Obligations.ModExpIsExact : Prop :=
  (∀ b e m : Nat, 3 ≤ m → 1 ≤ e → modExp b e m = b ^ e % m ∧ modExp b e m ≤ m - 1) ∧
  modExp 5 6 23 = 8 ∧ modExp 19 6 23 = 2

/-- 44_dh_modexp.md R144: two participants of one group reach the same shared secret. -/
def Obligations.DiffieHellmanAgrees : Prop :=
  ∀ p g xa xb : Nat, 3 ≤ p → 1 ≤ xa → 1 ≤ xb → modExp (modExp g xa p) xb p = modExp (modExp g xb p) xa p

/-- 44_dh_modexp.md R146: TC(s) encodes s big-endian in the least number of bytes n ≥ 1 with s < 2^(8n − 1). -/
def Obligations.TcIsTheMinimalEncoding : Prop :=
  tcBytes 0 = [0] ∧
  ∀ s : Nat, beNat (tcBytes s) = s ∧ 1 ≤ (tcBytes s).length ∧ s < 2 ^ (8 * (tcBytes s).length - 1) ∧
    ∀ n, 1 ≤ n → s < 2 ^ (8 * n - 1) → (tcBytes s).length ≤ n

/-! Invariants -/

/-- 70_reset_and_hazards.md R170: the reset state meets every invariant. -/
def Obligations.ResetMeetsTheInvariants : Prop :=
  bufInv State.reset ∧ windowInv State.reset ∧ cipherInv State.reset ∧ rc4Inv State.reset ∧ dhInv State.reset

/-- 10_state.md R19, R24, R25, R40, 20_memory.md R54, R56: every step keeps the register window's invariant, so that a command
in flight always has the snapshot of the registers as they stand. -/
def Obligations.StepKeepsTheWindowInvariant : Prop :=
  ∀ s t : State, windowInv s → step s = .next t → windowInv t

/-- 10_state.md R34 to R36, 43_modes.md R121, R123: every step keeps the agreement of key, schedule, context and operation. -/
def Obligations.StepKeepsTheCipherInvariant : Prop :=
  ∀ s t : State, cipherInv s → step s = .next t → cipherInv t

/-- 41_rc4.md R103, R104, 10_state.md R38: every step keeps S a permutation and the Diffie-Hellman unit coherent. -/
def Obligations.StepKeepsTheRc4AndDhInvariants : Prop :=
  ∀ s t : State, step s = .next t → (rc4Inv s → rc4Inv t) ∧ (dhInv s → dhInv t)

/-- 20_memory.md R44, R50: every step keeps BUF in canonical form with nothing outside it. -/
def Obligations.StepKeepsBufCanonical : Prop :=
  ∀ s t : State, cipherInv s → bufInv s → step s = .next t → bufInv t

/-! The host's code -/

/-- 70_reset_and_hazards.md R172: with the core idle, a chunk as the host gives it is the command on the registers and the data
the host wrote; the host learns its ERRCODE if it failed, else the OUTLEN bytes at DST, and leaves the core as the command
left it, but for the replies (log 11). -/
def Obligations.HostCommandGivesTheCommandsOutput : Prop :=
  ∀ (mk : Bool → Bool → Instr) (p : StreamPlace) (c : Chunk) (s : State), mk = .enc ∨ mk = .dec →
    cipherInv s → s.host = [] → s.inflight = none → p.src.toNat + c.data.length ≤ Config.bufSize →
    ∃ (u t : State) (r : HostRun),
      u = { s with
            regs := ⟨p.ctrl &&& 0x00013F77, p.src, BitVec.ofNat 32 c.data.length, p.dst, s.regs.src2, s.regs.len2⟩
            mem := u.mem, inflight := some ⟨encode (mk c.last c.first), u.regs⟩
            done := false, err := false, errcode := 0 } ∧
      storedAt s u p.src.toNat c.data ∧ exec (mk c.last c.first) u = .next t ∧
      hostCommand (chunkScript mk p c) p.dst s = .next r ∧ r.core = { t with replies := r.core.replies } ∧
      r.error = (if t.err then some t.errcode else none) ∧
      r.out = (if t.err then [] else bufRead t p.dst.toNat t.outlen.toNat)

/-- 70_reset_and_hazards.md R173: the chunks of both loops hold the stream's data, only the first has BEGIN and only the last
has LAST, and every other one has CHUNK_SIZE bytes. In encryption the last chunk is short, and empty when the length is a
multiple of CHUNK_SIZE; in decryption it is empty for an empty stream only. -/
def Obligations.ChunksOfAStream : Prop :=
  ∀ (data : Bytes) (cs : List Chunk),
    cs = encChunks true (readsOf data) ∨ cs = decChunks true ((readsOf data).headD []) (readsOf data).tail →
    cs.flatMap Chunk.data = data ∧
    (∃ init c, cs = init ++ [c] ∧ c.last = true ∧
      (∀ x ∈ init, x.last = false ∧ x.data.length = 65536) ∧
      (cs = encChunks true (readsOf data) → c.data.length = data.length % 65536) ∧
      (cs = decChunks true ((readsOf data).headD []) (readsOf data).tail →
        c.data.length ≤ 65536 ∧ (c.data = [] ↔ data = []))) ∧
    cs.head?.map Chunk.first = some true ∧ ∀ x ∈ cs.tail, x.first = false

/-- 70_reset_and_hazards.md R173, 43_modes.md R134, R136: the encryption loop, on an idle core with a context, meets no error,
and the writer is given the encryption of the whole stream, padded once at its end in a block mode. The host's code is log 18's,
and the filler `drawBytes` at the counter `draws` is the model's form of a draw (log 6), both DESIGN CHOICE. -/
def Obligations.EncryptStreamIsOneEncryption : Prop :=
  ∀ (p : StreamPlace) (sofar data : Bytes) (s : State) (z x : Bytes) (w : Bytes × OpRegs),
    cipherInv s → s.ctxv = true → s.host = [] → s.inflight = none →
    p.src.toNat + 65536 ≤ Config.bufSize → p.dst.toNat + 65536 + s.blockSize ≤ Config.bufSize →
    z = s.iv.getD (List.replicate s.blockSize 0) →
    x = (if s.lmode.isBlock = true
      then padBytes s.lpad data s.blockSize (drawBytes s.draws (padDraws s.lpad data.length s.blockSize)) else data) →
    w = runChunk s.sched ⟨s.lmode, z, s.lctrle, s.blockSize⟩ false ⟨z, z, z, 0⟩ x →
    ∃ r, encStream p sofar data s = .next r ∧ r.error = none ∧ r.out = sofar ++ w.1 ∧
      (⟨r.core.fb, r.core.pp, r.core.pcr, r.core.blkidx⟩ : OpRegs) = w.2 ∧ r.core.opact = false ∧ r.core.haz = s.haz

/-- 70_reset_and_hazards.md R173, 43_modes.md R135, R136: the decryption loop, on an idle core with a context, gives the writer
the decryption of the whole stream, its last chunk unpadded in a block mode. A stream that is not whole blocks, in a block
mode, fails at its last chunk with LengthError, when the writer has the chunks before it. The host's code is log 18's (DESIGN
CHOICE). -/
def Obligations.DecryptStreamIsOneDecryption : Prop :=
  ∀ (p : StreamPlace) (data : Bytes) (s : State) (z : Bytes) (n : Nat) (w : Bytes → Bytes × OpRegs),
    cipherInv s → s.ctxv = true → s.host = [] → s.inflight = none →
    p.src.toNat + 65536 ≤ Config.bufSize → p.dst.toNat + 65536 ≤ Config.bufSize →
    z = s.iv.getD (List.replicate s.blockSize 0) → n = (data.length - 1) / 65536 * 65536 →
    w = runChunk s.sched ⟨s.lmode, z, s.lctrle, s.blockSize⟩ true ⟨z, z, z, 0⟩ →
    (s.lmode.isBlock = false ∨ data.length % s.blockSize = 0 →
      ∃ r, decStream p data s = .next r ∧ r.error = none ∧
        r.out = (if s.lmode.isBlock = true
          then (w data).1.take n ++ unpadBytes s.lpad ((w data).1.drop n) s.blockSize else (w data).1) ∧
        (⟨r.core.fb, r.core.pp, r.core.pcr, r.core.blkidx⟩ : OpRegs) = (w data).2 ∧ r.core.opact = false ∧
        r.core.haz = s.haz) ∧
    (s.lmode.isBlock = true ∧ data.length % s.blockSize ≠ 0 →
      ∃ r, decStream p data s = .next r ∧ r.error = some 0x08 ∧ r.out = (w (data.take n)).1 ∧ r.core.opact = false)

/-- 70_reset_and_hazards.md R173: with the IV prefixed, the host issues CTX with the IV at SRC2; encryption then runs as without
a prefix, the IV being the first thing the writer is given; decryption takes the IV from the first B bytes of its input and
runs on the remainder. The host's code is log 18's (DESIGN CHOICE); the statement says nothing of a CTX that fails. -/
def Obligations.IvPrefixIsTheHostsWork : Prop :=
  ∀ (p : StreamPlace) (iv data : Bytes) (s : State) (m : Mode) (sch : Scheme),
    cipherInv s → s.keyed = true → s.host = [] → s.inflight = none →
    modeOf (p.ctrl.extractLsb' 4 3) = some m → m ≠ .ecb → schemeOf (p.ctrl.extractLsb' 8 3) = some sch →
    p.ctrl.getLsbD 11 = true → iv.length = s.blockSize → p.src2.toNat + s.blockSize ≤ Config.bufSize →
    ∃ t : State,
      t = { s with
            regs := ⟨p.ctrl &&& 0x00013F77, s.regs.src, s.regs.len, s.regs.dst, p.src2, BitVec.ofNat 32 s.blockSize⟩
            mem := t.mem, iv := some iv, lmode := m, lpad := sch, lctrle := p.ctrl.getLsbD 12, ctxv := true, opact := false
            outlen := 0, errcode := 0, err := false, done := true, replies := t.replies } ∧
      storedAt s t p.src2.toNat iv ∧
      encStreamPrefixed p iv data s = encStream p iv data t ∧
      decStreamPrefixed p s.blockSize (iv ++ data) s = decStream p data t
end

