-- ==== Sys2Proof/Laws/State.lean ====
section
/-! SUPPORT. One lemma per field and update of the state, each true by rfl, so that no proof unfolds a record update. -/

namespace Sys2Proof.Laws

open Machine

/-! bufWrite -/

@[simp] theorem bufWrite_regs (s : State) (a : Nat) (v : Bytes) :
    (bufWrite s a v).regs = s.regs := rfl
@[simp] theorem bufWrite_outlen (s : State) (a : Nat) (v : Bytes) :
    (bufWrite s a v).outlen = s.outlen := rfl
@[simp] theorem bufWrite_errcode (s : State) (a : Nat) (v : Bytes) :
    (bufWrite s a v).errcode = s.errcode := rfl
@[simp] theorem bufWrite_done (s : State) (a : Nat) (v : Bytes) :
    (bufWrite s a v).done = s.done := rfl
@[simp] theorem bufWrite_err (s : State) (a : Nat) (v : Bytes) :
    (bufWrite s a v).err = s.err := rfl
@[simp] theorem bufWrite_haz (s : State) (a : Nat) (v : Bytes) :
    (bufWrite s a v).haz = s.haz := rfl
@[simp] theorem bufWrite_inflight (s : State) (a : Nat) (v : Bytes) :
    (bufWrite s a v).inflight = s.inflight := rfl
@[simp] theorem bufWrite_keyed (s : State) (a : Nat) (v : Bytes) :
    (bufWrite s a v).keyed = s.keyed := rfl
@[simp] theorem bufWrite_lalg (s : State) (a : Nat) (v : Bytes) :
    (bufWrite s a v).lalg = s.lalg := rfl
@[simp] theorem bufWrite_key (s : State) (a : Nat) (v : Bytes) :
    (bufWrite s a v).key = s.key := rfl
@[simp] theorem bufWrite_sched (s : State) (a : Nat) (v : Bytes) :
    (bufWrite s a v).sched = s.sched := rfl
@[simp] theorem bufWrite_ctxv (s : State) (a : Nat) (v : Bytes) :
    (bufWrite s a v).ctxv = s.ctxv := rfl
@[simp] theorem bufWrite_lmode (s : State) (a : Nat) (v : Bytes) :
    (bufWrite s a v).lmode = s.lmode := rfl
@[simp] theorem bufWrite_lpad (s : State) (a : Nat) (v : Bytes) :
    (bufWrite s a v).lpad = s.lpad := rfl
@[simp] theorem bufWrite_lctrle (s : State) (a : Nat) (v : Bytes) :
    (bufWrite s a v).lctrle = s.lctrle := rfl
@[simp] theorem bufWrite_iv (s : State) (a : Nat) (v : Bytes) :
    (bufWrite s a v).iv = s.iv := rfl
@[simp] theorem bufWrite_opact (s : State) (a : Nat) (v : Bytes) :
    (bufWrite s a v).opact = s.opact := rfl
@[simp] theorem bufWrite_opdir (s : State) (a : Nat) (v : Bytes) :
    (bufWrite s a v).opdir = s.opdir := rfl
@[simp] theorem bufWrite_fb (s : State) (a : Nat) (v : Bytes) :
    (bufWrite s a v).fb = s.fb := rfl
@[simp] theorem bufWrite_pp (s : State) (a : Nat) (v : Bytes) :
    (bufWrite s a v).pp = s.pp := rfl
@[simp] theorem bufWrite_pcr (s : State) (a : Nat) (v : Bytes) :
    (bufWrite s a v).pcr = s.pcr := rfl
@[simp] theorem bufWrite_blkidx (s : State) (a : Nat) (v : Bytes) :
    (bufWrite s a v).blkidx = s.blkidx := rfl
@[simp] theorem bufWrite_rc4k (s : State) (a : Nat) (v : Bytes) :
    (bufWrite s a v).rc4k = s.rc4k := rfl
@[simp] theorem bufWrite_rcS (s : State) (a : Nat) (v : Bytes) :
    (bufWrite s a v).rcS = s.rcS := rfl
@[simp] theorem bufWrite_rcI (s : State) (a : Nat) (v : Bytes) :
    (bufWrite s a v).rcI = s.rcI := rfl
@[simp] theorem bufWrite_rcJ (s : State) (a : Nat) (v : Bytes) :
    (bufWrite s a v).rcJ = s.rcJ := rfl
@[simp] theorem bufWrite_dhv (s : State) (a : Nat) (v : Bytes) :
    (bufWrite s a v).dhv = s.dhv := rfl
@[simp] theorem bufWrite_dhp (s : State) (a : Nat) (v : Bytes) :
    (bufWrite s a v).dhp = s.dhp := rfl
@[simp] theorem bufWrite_dhg (s : State) (a : Nat) (v : Bytes) :
    (bufWrite s a v).dhg = s.dhg := rfl
@[simp] theorem bufWrite_plen (s : State) (a : Nat) (v : Bytes) :
    (bufWrite s a v).plen = s.plen := rfl
@[simp] theorem bufWrite_dhx (s : State) (a : Nat) (v : Bytes) :
    (bufWrite s a v).dhx = s.dhx := rfl
@[simp] theorem bufWrite_dhy (s : State) (a : Nat) (v : Bytes) :
    (bufWrite s a v).dhy = s.dhy := rfl
@[simp] theorem bufWrite_secv (s : State) (a : Nat) (v : Bytes) :
    (bufWrite s a v).secv = s.secv := rfl
@[simp] theorem bufWrite_sreg (s : State) (a : Nat) (v : Bytes) :
    (bufWrite s a v).sreg = s.sreg := rfl
@[simp] theorem bufWrite_mem (s : State) (a : Nat) (v : Bytes) :
    (bufWrite s a v).mem = memWrite s.mem a v := rfl
@[simp] theorem bufWrite_host (s : State) (a : Nat) (v : Bytes) :
    (bufWrite s a v).host = s.host := rfl
@[simp] theorem bufWrite_replies (s : State) (a : Nat) (v : Bytes) :
    (bufWrite s a v).replies = s.replies := rfl
@[simp] theorem bufWrite_draws (s : State) (a : Nat) (v : Bytes) :
    (bufWrite s a v).draws = s.draws := rfl
@[simp] theorem bufWrite_turns (s : State) (a : Nat) (v : Bytes) :
    (bufWrite s a v).turns = s.turns := rfl
@[simp] theorem bufWrite_bufGen (s : State) (a : Nat) (v : Bytes) :
    (bufWrite s a v).bufGen = s.bufGen := rfl
@[simp] theorem bufWrite_operands (s : State) (a : Nat) (v : Bytes) :
    (bufWrite s a v).operands = s.operands := rfl

/-! issue -/

@[simp] theorem issue_regs (w : Word) (s : State) :
    (issue w s).regs = s.regs := rfl
@[simp] theorem issue_outlen (w : Word) (s : State) :
    (issue w s).outlen = s.outlen := rfl
@[simp] theorem issue_errcode (w : Word) (s : State) :
    (issue w s).errcode = 0 := rfl
@[simp] theorem issue_done (w : Word) (s : State) :
    (issue w s).done = false := rfl
@[simp] theorem issue_err (w : Word) (s : State) :
    (issue w s).err = false := rfl
@[simp] theorem issue_haz (w : Word) (s : State) :
    (issue w s).haz = s.haz := rfl
@[simp] theorem issue_inflight (w : Word) (s : State) :
    (issue w s).inflight = some ⟨w, s.regs⟩ := rfl
@[simp] theorem issue_keyed (w : Word) (s : State) :
    (issue w s).keyed = s.keyed := rfl
@[simp] theorem issue_lalg (w : Word) (s : State) :
    (issue w s).lalg = s.lalg := rfl
@[simp] theorem issue_key (w : Word) (s : State) :
    (issue w s).key = s.key := rfl
@[simp] theorem issue_sched (w : Word) (s : State) :
    (issue w s).sched = s.sched := rfl
@[simp] theorem issue_ctxv (w : Word) (s : State) :
    (issue w s).ctxv = s.ctxv := rfl
@[simp] theorem issue_lmode (w : Word) (s : State) :
    (issue w s).lmode = s.lmode := rfl
@[simp] theorem issue_lpad (w : Word) (s : State) :
    (issue w s).lpad = s.lpad := rfl
@[simp] theorem issue_lctrle (w : Word) (s : State) :
    (issue w s).lctrle = s.lctrle := rfl
@[simp] theorem issue_iv (w : Word) (s : State) :
    (issue w s).iv = s.iv := rfl
@[simp] theorem issue_opact (w : Word) (s : State) :
    (issue w s).opact = s.opact := rfl
@[simp] theorem issue_opdir (w : Word) (s : State) :
    (issue w s).opdir = s.opdir := rfl
@[simp] theorem issue_fb (w : Word) (s : State) :
    (issue w s).fb = s.fb := rfl
@[simp] theorem issue_pp (w : Word) (s : State) :
    (issue w s).pp = s.pp := rfl
@[simp] theorem issue_pcr (w : Word) (s : State) :
    (issue w s).pcr = s.pcr := rfl
@[simp] theorem issue_blkidx (w : Word) (s : State) :
    (issue w s).blkidx = s.blkidx := rfl
@[simp] theorem issue_rc4k (w : Word) (s : State) :
    (issue w s).rc4k = s.rc4k := rfl
@[simp] theorem issue_rcS (w : Word) (s : State) :
    (issue w s).rcS = s.rcS := rfl
@[simp] theorem issue_rcI (w : Word) (s : State) :
    (issue w s).rcI = s.rcI := rfl
@[simp] theorem issue_rcJ (w : Word) (s : State) :
    (issue w s).rcJ = s.rcJ := rfl
@[simp] theorem issue_dhv (w : Word) (s : State) :
    (issue w s).dhv = s.dhv := rfl
@[simp] theorem issue_dhp (w : Word) (s : State) :
    (issue w s).dhp = s.dhp := rfl
@[simp] theorem issue_dhg (w : Word) (s : State) :
    (issue w s).dhg = s.dhg := rfl
@[simp] theorem issue_plen (w : Word) (s : State) :
    (issue w s).plen = s.plen := rfl
@[simp] theorem issue_dhx (w : Word) (s : State) :
    (issue w s).dhx = s.dhx := rfl
@[simp] theorem issue_dhy (w : Word) (s : State) :
    (issue w s).dhy = s.dhy := rfl
@[simp] theorem issue_secv (w : Word) (s : State) :
    (issue w s).secv = s.secv := rfl
@[simp] theorem issue_sreg (w : Word) (s : State) :
    (issue w s).sreg = s.sreg := rfl
@[simp] theorem issue_mem (w : Word) (s : State) :
    (issue w s).mem = s.mem := rfl
@[simp] theorem issue_host (w : Word) (s : State) :
    (issue w s).host = s.host := rfl
@[simp] theorem issue_replies (w : Word) (s : State) :
    (issue w s).replies = s.replies := rfl
@[simp] theorem issue_draws (w : Word) (s : State) :
    (issue w s).draws = s.draws := rfl
@[simp] theorem issue_turns (w : Word) (s : State) :
    (issue w s).turns = s.turns := rfl
@[simp] theorem issue_bufGen (w : Word) (s : State) :
    (issue w s).bufGen = s.bufGen := rfl
@[simp] theorem issue_operands (w : Word) (s : State) :
    (issue w s).operands = s.regs := rfl

/-! complete -/

@[simp] theorem complete_regs (n : Nat) (s : State) :
    (complete n s).regs = s.regs := rfl
@[simp] theorem complete_outlen (n : Nat) (s : State) :
    (complete n s).outlen = BitVec.ofNat 32 n := rfl
@[simp] theorem complete_errcode (n : Nat) (s : State) :
    (complete n s).errcode = 0 := rfl
@[simp] theorem complete_done (n : Nat) (s : State) :
    (complete n s).done = true := rfl
@[simp] theorem complete_err (n : Nat) (s : State) :
    (complete n s).err = false := rfl
@[simp] theorem complete_haz (n : Nat) (s : State) :
    (complete n s).haz = s.haz := rfl
@[simp] theorem complete_inflight (n : Nat) (s : State) :
    (complete n s).inflight = none := rfl
@[simp] theorem complete_keyed (n : Nat) (s : State) :
    (complete n s).keyed = s.keyed := rfl
@[simp] theorem complete_lalg (n : Nat) (s : State) :
    (complete n s).lalg = s.lalg := rfl
@[simp] theorem complete_key (n : Nat) (s : State) :
    (complete n s).key = s.key := rfl
@[simp] theorem complete_sched (n : Nat) (s : State) :
    (complete n s).sched = s.sched := rfl
@[simp] theorem complete_ctxv (n : Nat) (s : State) :
    (complete n s).ctxv = s.ctxv := rfl
@[simp] theorem complete_lmode (n : Nat) (s : State) :
    (complete n s).lmode = s.lmode := rfl
@[simp] theorem complete_lpad (n : Nat) (s : State) :
    (complete n s).lpad = s.lpad := rfl
@[simp] theorem complete_lctrle (n : Nat) (s : State) :
    (complete n s).lctrle = s.lctrle := rfl
@[simp] theorem complete_iv (n : Nat) (s : State) :
    (complete n s).iv = s.iv := rfl
@[simp] theorem complete_opact (n : Nat) (s : State) :
    (complete n s).opact = s.opact := rfl
@[simp] theorem complete_opdir (n : Nat) (s : State) :
    (complete n s).opdir = s.opdir := rfl
@[simp] theorem complete_fb (n : Nat) (s : State) :
    (complete n s).fb = s.fb := rfl
@[simp] theorem complete_pp (n : Nat) (s : State) :
    (complete n s).pp = s.pp := rfl
@[simp] theorem complete_pcr (n : Nat) (s : State) :
    (complete n s).pcr = s.pcr := rfl
@[simp] theorem complete_blkidx (n : Nat) (s : State) :
    (complete n s).blkidx = s.blkidx := rfl
@[simp] theorem complete_rc4k (n : Nat) (s : State) :
    (complete n s).rc4k = s.rc4k := rfl
@[simp] theorem complete_rcS (n : Nat) (s : State) :
    (complete n s).rcS = s.rcS := rfl
@[simp] theorem complete_rcI (n : Nat) (s : State) :
    (complete n s).rcI = s.rcI := rfl
@[simp] theorem complete_rcJ (n : Nat) (s : State) :
    (complete n s).rcJ = s.rcJ := rfl
@[simp] theorem complete_dhv (n : Nat) (s : State) :
    (complete n s).dhv = s.dhv := rfl
@[simp] theorem complete_dhp (n : Nat) (s : State) :
    (complete n s).dhp = s.dhp := rfl
@[simp] theorem complete_dhg (n : Nat) (s : State) :
    (complete n s).dhg = s.dhg := rfl
@[simp] theorem complete_plen (n : Nat) (s : State) :
    (complete n s).plen = s.plen := rfl
@[simp] theorem complete_dhx (n : Nat) (s : State) :
    (complete n s).dhx = s.dhx := rfl
@[simp] theorem complete_dhy (n : Nat) (s : State) :
    (complete n s).dhy = s.dhy := rfl
@[simp] theorem complete_secv (n : Nat) (s : State) :
    (complete n s).secv = s.secv := rfl
@[simp] theorem complete_sreg (n : Nat) (s : State) :
    (complete n s).sreg = s.sreg := rfl
@[simp] theorem complete_mem (n : Nat) (s : State) :
    (complete n s).mem = s.mem := rfl
@[simp] theorem complete_host (n : Nat) (s : State) :
    (complete n s).host = s.host := rfl
@[simp] theorem complete_replies (n : Nat) (s : State) :
    (complete n s).replies = s.replies := rfl
@[simp] theorem complete_draws (n : Nat) (s : State) :
    (complete n s).draws = s.draws := rfl
@[simp] theorem complete_turns (n : Nat) (s : State) :
    (complete n s).turns = s.turns := rfl
@[simp] theorem complete_bufGen (n : Nat) (s : State) :
    (complete n s).bufGen = s.bufGen := rfl
@[simp] theorem complete_operands (n : Nat) (s : State) :
    (complete n s).operands = s.regs := rfl

/-! raiseError -/

@[simp] theorem raiseError_regs (b : Bool) (e : ErrorKind) (s : State) :
    (raiseError b e s).regs = s.regs := rfl
@[simp] theorem raiseError_outlen (b : Bool) (e : ErrorKind) (s : State) :
    (raiseError b e s).outlen = 0 := rfl
@[simp] theorem raiseError_errcode (b : Bool) (e : ErrorKind) (s : State) :
    (raiseError b e s).errcode = errorCode e := rfl
@[simp] theorem raiseError_done (b : Bool) (e : ErrorKind) (s : State) :
    (raiseError b e s).done = true := rfl
@[simp] theorem raiseError_err (b : Bool) (e : ErrorKind) (s : State) :
    (raiseError b e s).err = true := rfl
@[simp] theorem raiseError_haz (b : Bool) (e : ErrorKind) (s : State) :
    (raiseError b e s).haz = s.haz := rfl
@[simp] theorem raiseError_inflight (b : Bool) (e : ErrorKind) (s : State) :
    (raiseError b e s).inflight = none := rfl
@[simp] theorem raiseError_keyed (b : Bool) (e : ErrorKind) (s : State) :
    (raiseError b e s).keyed = s.keyed := rfl
@[simp] theorem raiseError_lalg (b : Bool) (e : ErrorKind) (s : State) :
    (raiseError b e s).lalg = s.lalg := rfl
@[simp] theorem raiseError_key (b : Bool) (e : ErrorKind) (s : State) :
    (raiseError b e s).key = s.key := rfl
@[simp] theorem raiseError_sched (b : Bool) (e : ErrorKind) (s : State) :
    (raiseError b e s).sched = s.sched := rfl
@[simp] theorem raiseError_ctxv (b : Bool) (e : ErrorKind) (s : State) :
    (raiseError b e s).ctxv = s.ctxv := rfl
@[simp] theorem raiseError_lmode (b : Bool) (e : ErrorKind) (s : State) :
    (raiseError b e s).lmode = s.lmode := rfl
@[simp] theorem raiseError_lpad (b : Bool) (e : ErrorKind) (s : State) :
    (raiseError b e s).lpad = s.lpad := rfl
@[simp] theorem raiseError_lctrle (b : Bool) (e : ErrorKind) (s : State) :
    (raiseError b e s).lctrle = s.lctrle := rfl
@[simp] theorem raiseError_iv (b : Bool) (e : ErrorKind) (s : State) :
    (raiseError b e s).iv = s.iv := rfl
@[simp] theorem raiseError_opact (b : Bool) (e : ErrorKind) (s : State) :
    (raiseError b e s).opact = (s.opact && !b) := rfl
@[simp] theorem raiseError_opdir (b : Bool) (e : ErrorKind) (s : State) :
    (raiseError b e s).opdir = s.opdir := rfl
@[simp] theorem raiseError_fb (b : Bool) (e : ErrorKind) (s : State) :
    (raiseError b e s).fb = s.fb := rfl
@[simp] theorem raiseError_pp (b : Bool) (e : ErrorKind) (s : State) :
    (raiseError b e s).pp = s.pp := rfl
@[simp] theorem raiseError_pcr (b : Bool) (e : ErrorKind) (s : State) :
    (raiseError b e s).pcr = s.pcr := rfl
@[simp] theorem raiseError_blkidx (b : Bool) (e : ErrorKind) (s : State) :
    (raiseError b e s).blkidx = s.blkidx := rfl
@[simp] theorem raiseError_rc4k (b : Bool) (e : ErrorKind) (s : State) :
    (raiseError b e s).rc4k = s.rc4k := rfl
@[simp] theorem raiseError_rcS (b : Bool) (e : ErrorKind) (s : State) :
    (raiseError b e s).rcS = s.rcS := rfl
@[simp] theorem raiseError_rcI (b : Bool) (e : ErrorKind) (s : State) :
    (raiseError b e s).rcI = s.rcI := rfl
@[simp] theorem raiseError_rcJ (b : Bool) (e : ErrorKind) (s : State) :
    (raiseError b e s).rcJ = s.rcJ := rfl
@[simp] theorem raiseError_dhv (b : Bool) (e : ErrorKind) (s : State) :
    (raiseError b e s).dhv = s.dhv := rfl
@[simp] theorem raiseError_dhp (b : Bool) (e : ErrorKind) (s : State) :
    (raiseError b e s).dhp = s.dhp := rfl
@[simp] theorem raiseError_dhg (b : Bool) (e : ErrorKind) (s : State) :
    (raiseError b e s).dhg = s.dhg := rfl
@[simp] theorem raiseError_plen (b : Bool) (e : ErrorKind) (s : State) :
    (raiseError b e s).plen = s.plen := rfl
@[simp] theorem raiseError_dhx (b : Bool) (e : ErrorKind) (s : State) :
    (raiseError b e s).dhx = s.dhx := rfl
@[simp] theorem raiseError_dhy (b : Bool) (e : ErrorKind) (s : State) :
    (raiseError b e s).dhy = s.dhy := rfl
@[simp] theorem raiseError_secv (b : Bool) (e : ErrorKind) (s : State) :
    (raiseError b e s).secv = s.secv := rfl
@[simp] theorem raiseError_sreg (b : Bool) (e : ErrorKind) (s : State) :
    (raiseError b e s).sreg = s.sreg := rfl
@[simp] theorem raiseError_mem (b : Bool) (e : ErrorKind) (s : State) :
    (raiseError b e s).mem = s.mem := rfl
@[simp] theorem raiseError_host (b : Bool) (e : ErrorKind) (s : State) :
    (raiseError b e s).host = s.host := rfl
@[simp] theorem raiseError_replies (b : Bool) (e : ErrorKind) (s : State) :
    (raiseError b e s).replies = s.replies := rfl
@[simp] theorem raiseError_draws (b : Bool) (e : ErrorKind) (s : State) :
    (raiseError b e s).draws = s.draws := rfl
@[simp] theorem raiseError_turns (b : Bool) (e : ErrorKind) (s : State) :
    (raiseError b e s).turns = s.turns := rfl
@[simp] theorem raiseError_bufGen (b : Bool) (e : ErrorKind) (s : State) :
    (raiseError b e s).bufGen = s.bufGen := rfl
@[simp] theorem raiseError_operands (b : Bool) (e : ErrorKind) (s : State) :
    (raiseError b e s).operands = s.regs := rfl

/-! ackStatus -/

@[simp] theorem ackStatus_regs (v : Word) (s : State) :
    (ackStatus v s).regs = s.regs := rfl
@[simp] theorem ackStatus_outlen (v : Word) (s : State) :
    (ackStatus v s).outlen = s.outlen := rfl
@[simp] theorem ackStatus_errcode (v : Word) (s : State) :
    (ackStatus v s).errcode = s.errcode := rfl
@[simp] theorem ackStatus_done (v : Word) (s : State) :
    (ackStatus v s).done = (s.done && !v.getLsbD 1) := rfl
@[simp] theorem ackStatus_err (v : Word) (s : State) :
    (ackStatus v s).err = (s.err && !v.getLsbD 2) := rfl
@[simp] theorem ackStatus_haz (v : Word) (s : State) :
    (ackStatus v s).haz = (s.haz && !v.getLsbD 3) := rfl
@[simp] theorem ackStatus_inflight (v : Word) (s : State) :
    (ackStatus v s).inflight = s.inflight := rfl
@[simp] theorem ackStatus_keyed (v : Word) (s : State) :
    (ackStatus v s).keyed = s.keyed := rfl
@[simp] theorem ackStatus_lalg (v : Word) (s : State) :
    (ackStatus v s).lalg = s.lalg := rfl
@[simp] theorem ackStatus_key (v : Word) (s : State) :
    (ackStatus v s).key = s.key := rfl
@[simp] theorem ackStatus_sched (v : Word) (s : State) :
    (ackStatus v s).sched = s.sched := rfl
@[simp] theorem ackStatus_ctxv (v : Word) (s : State) :
    (ackStatus v s).ctxv = s.ctxv := rfl
@[simp] theorem ackStatus_lmode (v : Word) (s : State) :
    (ackStatus v s).lmode = s.lmode := rfl
@[simp] theorem ackStatus_lpad (v : Word) (s : State) :
    (ackStatus v s).lpad = s.lpad := rfl
@[simp] theorem ackStatus_lctrle (v : Word) (s : State) :
    (ackStatus v s).lctrle = s.lctrle := rfl
@[simp] theorem ackStatus_iv (v : Word) (s : State) :
    (ackStatus v s).iv = s.iv := rfl
@[simp] theorem ackStatus_opact (v : Word) (s : State) :
    (ackStatus v s).opact = s.opact := rfl
@[simp] theorem ackStatus_opdir (v : Word) (s : State) :
    (ackStatus v s).opdir = s.opdir := rfl
@[simp] theorem ackStatus_fb (v : Word) (s : State) :
    (ackStatus v s).fb = s.fb := rfl
@[simp] theorem ackStatus_pp (v : Word) (s : State) :
    (ackStatus v s).pp = s.pp := rfl
@[simp] theorem ackStatus_pcr (v : Word) (s : State) :
    (ackStatus v s).pcr = s.pcr := rfl
@[simp] theorem ackStatus_blkidx (v : Word) (s : State) :
    (ackStatus v s).blkidx = s.blkidx := rfl
@[simp] theorem ackStatus_rc4k (v : Word) (s : State) :
    (ackStatus v s).rc4k = s.rc4k := rfl
@[simp] theorem ackStatus_rcS (v : Word) (s : State) :
    (ackStatus v s).rcS = s.rcS := rfl
@[simp] theorem ackStatus_rcI (v : Word) (s : State) :
    (ackStatus v s).rcI = s.rcI := rfl
@[simp] theorem ackStatus_rcJ (v : Word) (s : State) :
    (ackStatus v s).rcJ = s.rcJ := rfl
@[simp] theorem ackStatus_dhv (v : Word) (s : State) :
    (ackStatus v s).dhv = s.dhv := rfl
@[simp] theorem ackStatus_dhp (v : Word) (s : State) :
    (ackStatus v s).dhp = s.dhp := rfl
@[simp] theorem ackStatus_dhg (v : Word) (s : State) :
    (ackStatus v s).dhg = s.dhg := rfl
@[simp] theorem ackStatus_plen (v : Word) (s : State) :
    (ackStatus v s).plen = s.plen := rfl
@[simp] theorem ackStatus_dhx (v : Word) (s : State) :
    (ackStatus v s).dhx = s.dhx := rfl
@[simp] theorem ackStatus_dhy (v : Word) (s : State) :
    (ackStatus v s).dhy = s.dhy := rfl
@[simp] theorem ackStatus_secv (v : Word) (s : State) :
    (ackStatus v s).secv = s.secv := rfl
@[simp] theorem ackStatus_sreg (v : Word) (s : State) :
    (ackStatus v s).sreg = s.sreg := rfl
@[simp] theorem ackStatus_mem (v : Word) (s : State) :
    (ackStatus v s).mem = s.mem := rfl
@[simp] theorem ackStatus_host (v : Word) (s : State) :
    (ackStatus v s).host = s.host := rfl
@[simp] theorem ackStatus_replies (v : Word) (s : State) :
    (ackStatus v s).replies = s.replies := rfl
@[simp] theorem ackStatus_draws (v : Word) (s : State) :
    (ackStatus v s).draws = s.draws := rfl
@[simp] theorem ackStatus_turns (v : Word) (s : State) :
    (ackStatus v s).turns = s.turns := rfl
@[simp] theorem ackStatus_bufGen (v : Word) (s : State) :
    (ackStatus v s).bufGen = s.bufGen := rfl
@[simp] theorem ackStatus_operands (v : Word) (s : State) :
    (ackStatus v s).operands = s.operands := rfl

/-! setHaz -/

@[simp] theorem setHaz_regs (s : State) :
    (setHaz s).regs = s.regs := rfl
@[simp] theorem setHaz_outlen (s : State) :
    (setHaz s).outlen = s.outlen := rfl
@[simp] theorem setHaz_errcode (s : State) :
    (setHaz s).errcode = s.errcode := rfl
@[simp] theorem setHaz_done (s : State) :
    (setHaz s).done = s.done := rfl
@[simp] theorem setHaz_err (s : State) :
    (setHaz s).err = s.err := rfl
@[simp] theorem setHaz_haz (s : State) :
    (setHaz s).haz = true := rfl
@[simp] theorem setHaz_inflight (s : State) :
    (setHaz s).inflight = s.inflight := rfl
@[simp] theorem setHaz_keyed (s : State) :
    (setHaz s).keyed = s.keyed := rfl
@[simp] theorem setHaz_lalg (s : State) :
    (setHaz s).lalg = s.lalg := rfl
@[simp] theorem setHaz_key (s : State) :
    (setHaz s).key = s.key := rfl
@[simp] theorem setHaz_sched (s : State) :
    (setHaz s).sched = s.sched := rfl
@[simp] theorem setHaz_ctxv (s : State) :
    (setHaz s).ctxv = s.ctxv := rfl
@[simp] theorem setHaz_lmode (s : State) :
    (setHaz s).lmode = s.lmode := rfl
@[simp] theorem setHaz_lpad (s : State) :
    (setHaz s).lpad = s.lpad := rfl
@[simp] theorem setHaz_lctrle (s : State) :
    (setHaz s).lctrle = s.lctrle := rfl
@[simp] theorem setHaz_iv (s : State) :
    (setHaz s).iv = s.iv := rfl
@[simp] theorem setHaz_opact (s : State) :
    (setHaz s).opact = s.opact := rfl
@[simp] theorem setHaz_opdir (s : State) :
    (setHaz s).opdir = s.opdir := rfl
@[simp] theorem setHaz_fb (s : State) :
    (setHaz s).fb = s.fb := rfl
@[simp] theorem setHaz_pp (s : State) :
    (setHaz s).pp = s.pp := rfl
@[simp] theorem setHaz_pcr (s : State) :
    (setHaz s).pcr = s.pcr := rfl
@[simp] theorem setHaz_blkidx (s : State) :
    (setHaz s).blkidx = s.blkidx := rfl
@[simp] theorem setHaz_rc4k (s : State) :
    (setHaz s).rc4k = s.rc4k := rfl
@[simp] theorem setHaz_rcS (s : State) :
    (setHaz s).rcS = s.rcS := rfl
@[simp] theorem setHaz_rcI (s : State) :
    (setHaz s).rcI = s.rcI := rfl
@[simp] theorem setHaz_rcJ (s : State) :
    (setHaz s).rcJ = s.rcJ := rfl
@[simp] theorem setHaz_dhv (s : State) :
    (setHaz s).dhv = s.dhv := rfl
@[simp] theorem setHaz_dhp (s : State) :
    (setHaz s).dhp = s.dhp := rfl
@[simp] theorem setHaz_dhg (s : State) :
    (setHaz s).dhg = s.dhg := rfl
@[simp] theorem setHaz_plen (s : State) :
    (setHaz s).plen = s.plen := rfl
@[simp] theorem setHaz_dhx (s : State) :
    (setHaz s).dhx = s.dhx := rfl
@[simp] theorem setHaz_dhy (s : State) :
    (setHaz s).dhy = s.dhy := rfl
@[simp] theorem setHaz_secv (s : State) :
    (setHaz s).secv = s.secv := rfl
@[simp] theorem setHaz_sreg (s : State) :
    (setHaz s).sreg = s.sreg := rfl
@[simp] theorem setHaz_mem (s : State) :
    (setHaz s).mem = s.mem := rfl
@[simp] theorem setHaz_host (s : State) :
    (setHaz s).host = s.host := rfl
@[simp] theorem setHaz_replies (s : State) :
    (setHaz s).replies = s.replies := rfl
@[simp] theorem setHaz_draws (s : State) :
    (setHaz s).draws = s.draws := rfl
@[simp] theorem setHaz_turns (s : State) :
    (setHaz s).turns = s.turns := rfl
@[simp] theorem setHaz_bufGen (s : State) :
    (setHaz s).bufGen = s.bufGen := rfl
@[simp] theorem setHaz_operands (s : State) :
    (setHaz s).operands = s.operands := rfl

/-! answer -/

@[simp] theorem answer_regs (r : Reply) (s : State) :
    (answer r s).regs = s.regs := rfl
@[simp] theorem answer_outlen (r : Reply) (s : State) :
    (answer r s).outlen = s.outlen := rfl
@[simp] theorem answer_errcode (r : Reply) (s : State) :
    (answer r s).errcode = s.errcode := rfl
@[simp] theorem answer_done (r : Reply) (s : State) :
    (answer r s).done = s.done := rfl
@[simp] theorem answer_err (r : Reply) (s : State) :
    (answer r s).err = s.err := rfl
@[simp] theorem answer_haz (r : Reply) (s : State) :
    (answer r s).haz = s.haz := rfl
@[simp] theorem answer_inflight (r : Reply) (s : State) :
    (answer r s).inflight = s.inflight := rfl
@[simp] theorem answer_keyed (r : Reply) (s : State) :
    (answer r s).keyed = s.keyed := rfl
@[simp] theorem answer_lalg (r : Reply) (s : State) :
    (answer r s).lalg = s.lalg := rfl
@[simp] theorem answer_key (r : Reply) (s : State) :
    (answer r s).key = s.key := rfl
@[simp] theorem answer_sched (r : Reply) (s : State) :
    (answer r s).sched = s.sched := rfl
@[simp] theorem answer_ctxv (r : Reply) (s : State) :
    (answer r s).ctxv = s.ctxv := rfl
@[simp] theorem answer_lmode (r : Reply) (s : State) :
    (answer r s).lmode = s.lmode := rfl
@[simp] theorem answer_lpad (r : Reply) (s : State) :
    (answer r s).lpad = s.lpad := rfl
@[simp] theorem answer_lctrle (r : Reply) (s : State) :
    (answer r s).lctrle = s.lctrle := rfl
@[simp] theorem answer_iv (r : Reply) (s : State) :
    (answer r s).iv = s.iv := rfl
@[simp] theorem answer_opact (r : Reply) (s : State) :
    (answer r s).opact = s.opact := rfl
@[simp] theorem answer_opdir (r : Reply) (s : State) :
    (answer r s).opdir = s.opdir := rfl
@[simp] theorem answer_fb (r : Reply) (s : State) :
    (answer r s).fb = s.fb := rfl
@[simp] theorem answer_pp (r : Reply) (s : State) :
    (answer r s).pp = s.pp := rfl
@[simp] theorem answer_pcr (r : Reply) (s : State) :
    (answer r s).pcr = s.pcr := rfl
@[simp] theorem answer_blkidx (r : Reply) (s : State) :
    (answer r s).blkidx = s.blkidx := rfl
@[simp] theorem answer_rc4k (r : Reply) (s : State) :
    (answer r s).rc4k = s.rc4k := rfl
@[simp] theorem answer_rcS (r : Reply) (s : State) :
    (answer r s).rcS = s.rcS := rfl
@[simp] theorem answer_rcI (r : Reply) (s : State) :
    (answer r s).rcI = s.rcI := rfl
@[simp] theorem answer_rcJ (r : Reply) (s : State) :
    (answer r s).rcJ = s.rcJ := rfl
@[simp] theorem answer_dhv (r : Reply) (s : State) :
    (answer r s).dhv = s.dhv := rfl
@[simp] theorem answer_dhp (r : Reply) (s : State) :
    (answer r s).dhp = s.dhp := rfl
@[simp] theorem answer_dhg (r : Reply) (s : State) :
    (answer r s).dhg = s.dhg := rfl
@[simp] theorem answer_plen (r : Reply) (s : State) :
    (answer r s).plen = s.plen := rfl
@[simp] theorem answer_dhx (r : Reply) (s : State) :
    (answer r s).dhx = s.dhx := rfl
@[simp] theorem answer_dhy (r : Reply) (s : State) :
    (answer r s).dhy = s.dhy := rfl
@[simp] theorem answer_secv (r : Reply) (s : State) :
    (answer r s).secv = s.secv := rfl
@[simp] theorem answer_sreg (r : Reply) (s : State) :
    (answer r s).sreg = s.sreg := rfl
@[simp] theorem answer_mem (r : Reply) (s : State) :
    (answer r s).mem = s.mem := rfl
@[simp] theorem answer_host (r : Reply) (s : State) :
    (answer r s).host = s.host := rfl
@[simp] theorem answer_replies (r : Reply) (s : State) :
    (answer r s).replies = r :: s.replies := rfl
@[simp] theorem answer_draws (r : Reply) (s : State) :
    (answer r s).draws = s.draws := rfl
@[simp] theorem answer_turns (r : Reply) (s : State) :
    (answer r s).turns = s.turns := rfl
@[simp] theorem answer_bufGen (r : Reply) (s : State) :
    (answer r s).bufGen = s.bufGen := rfl
@[simp] theorem answer_operands (r : Reply) (s : State) :
    (answer r s).operands = s.operands := rfl

/-! afterExponentDraw -/

@[simp] theorem afterExponentDraw_regs (s : State) :
    (afterExponentDraw s).regs = s.regs := rfl
@[simp] theorem afterExponentDraw_outlen (s : State) :
    (afterExponentDraw s).outlen = s.outlen := rfl
@[simp] theorem afterExponentDraw_errcode (s : State) :
    (afterExponentDraw s).errcode = s.errcode := rfl
@[simp] theorem afterExponentDraw_done (s : State) :
    (afterExponentDraw s).done = s.done := rfl
@[simp] theorem afterExponentDraw_err (s : State) :
    (afterExponentDraw s).err = s.err := rfl
@[simp] theorem afterExponentDraw_haz (s : State) :
    (afterExponentDraw s).haz = s.haz := rfl
@[simp] theorem afterExponentDraw_inflight (s : State) :
    (afterExponentDraw s).inflight = s.inflight := rfl
@[simp] theorem afterExponentDraw_keyed (s : State) :
    (afterExponentDraw s).keyed = s.keyed := rfl
@[simp] theorem afterExponentDraw_lalg (s : State) :
    (afterExponentDraw s).lalg = s.lalg := rfl
@[simp] theorem afterExponentDraw_key (s : State) :
    (afterExponentDraw s).key = s.key := rfl
@[simp] theorem afterExponentDraw_sched (s : State) :
    (afterExponentDraw s).sched = s.sched := rfl
@[simp] theorem afterExponentDraw_ctxv (s : State) :
    (afterExponentDraw s).ctxv = s.ctxv := rfl
@[simp] theorem afterExponentDraw_lmode (s : State) :
    (afterExponentDraw s).lmode = s.lmode := rfl
@[simp] theorem afterExponentDraw_lpad (s : State) :
    (afterExponentDraw s).lpad = s.lpad := rfl
@[simp] theorem afterExponentDraw_lctrle (s : State) :
    (afterExponentDraw s).lctrle = s.lctrle := rfl
@[simp] theorem afterExponentDraw_iv (s : State) :
    (afterExponentDraw s).iv = s.iv := rfl
@[simp] theorem afterExponentDraw_opact (s : State) :
    (afterExponentDraw s).opact = s.opact := rfl
@[simp] theorem afterExponentDraw_opdir (s : State) :
    (afterExponentDraw s).opdir = s.opdir := rfl
@[simp] theorem afterExponentDraw_fb (s : State) :
    (afterExponentDraw s).fb = s.fb := rfl
@[simp] theorem afterExponentDraw_pp (s : State) :
    (afterExponentDraw s).pp = s.pp := rfl
@[simp] theorem afterExponentDraw_pcr (s : State) :
    (afterExponentDraw s).pcr = s.pcr := rfl
@[simp] theorem afterExponentDraw_blkidx (s : State) :
    (afterExponentDraw s).blkidx = s.blkidx := rfl
@[simp] theorem afterExponentDraw_rc4k (s : State) :
    (afterExponentDraw s).rc4k = s.rc4k := rfl
@[simp] theorem afterExponentDraw_rcS (s : State) :
    (afterExponentDraw s).rcS = s.rcS := rfl
@[simp] theorem afterExponentDraw_rcI (s : State) :
    (afterExponentDraw s).rcI = s.rcI := rfl
@[simp] theorem afterExponentDraw_rcJ (s : State) :
    (afterExponentDraw s).rcJ = s.rcJ := rfl
@[simp] theorem afterExponentDraw_dhv (s : State) :
    (afterExponentDraw s).dhv = s.dhv := rfl
@[simp] theorem afterExponentDraw_dhp (s : State) :
    (afterExponentDraw s).dhp = s.dhp := rfl
@[simp] theorem afterExponentDraw_dhg (s : State) :
    (afterExponentDraw s).dhg = s.dhg := rfl
@[simp] theorem afterExponentDraw_plen (s : State) :
    (afterExponentDraw s).plen = s.plen := rfl
@[simp] theorem afterExponentDraw_dhx (s : State) :
    (afterExponentDraw s).dhx = s.dhx := rfl
@[simp] theorem afterExponentDraw_dhy (s : State) :
    (afterExponentDraw s).dhy = s.dhy := rfl
@[simp] theorem afterExponentDraw_secv (s : State) :
    (afterExponentDraw s).secv = s.secv := rfl
@[simp] theorem afterExponentDraw_sreg (s : State) :
    (afterExponentDraw s).sreg = s.sreg := rfl
@[simp] theorem afterExponentDraw_mem (s : State) :
    (afterExponentDraw s).mem = s.mem := rfl
@[simp] theorem afterExponentDraw_host (s : State) :
    (afterExponentDraw s).host = s.host := rfl
@[simp] theorem afterExponentDraw_replies (s : State) :
    (afterExponentDraw s).replies = s.replies := rfl
@[simp] theorem afterExponentDraw_draws (s : State) :
    (afterExponentDraw s).draws = s.draws + 1 := rfl
@[simp] theorem afterExponentDraw_turns (s : State) :
    (afterExponentDraw s).turns = s.turns := rfl
@[simp] theorem afterExponentDraw_bufGen (s : State) :
    (afterExponentDraw s).bufGen = s.bufGen := rfl
@[simp] theorem afterExponentDraw_operands (s : State) :
    (afterExponentDraw s).operands = s.operands := rfl

/-! afterChunk -/

@[simp] theorem afterChunk_regs (lf bf dir : Bool) (r : OpRegs) (s : State) :
    (afterChunk lf bf dir r s).regs = s.regs := rfl
@[simp] theorem afterChunk_outlen (lf bf dir : Bool) (r : OpRegs) (s : State) :
    (afterChunk lf bf dir r s).outlen = s.outlen := rfl
@[simp] theorem afterChunk_errcode (lf bf dir : Bool) (r : OpRegs) (s : State) :
    (afterChunk lf bf dir r s).errcode = s.errcode := rfl
@[simp] theorem afterChunk_done (lf bf dir : Bool) (r : OpRegs) (s : State) :
    (afterChunk lf bf dir r s).done = s.done := rfl
@[simp] theorem afterChunk_err (lf bf dir : Bool) (r : OpRegs) (s : State) :
    (afterChunk lf bf dir r s).err = s.err := rfl
@[simp] theorem afterChunk_haz (lf bf dir : Bool) (r : OpRegs) (s : State) :
    (afterChunk lf bf dir r s).haz = s.haz := rfl
@[simp] theorem afterChunk_inflight (lf bf dir : Bool) (r : OpRegs) (s : State) :
    (afterChunk lf bf dir r s).inflight = s.inflight := rfl
@[simp] theorem afterChunk_keyed (lf bf dir : Bool) (r : OpRegs) (s : State) :
    (afterChunk lf bf dir r s).keyed = s.keyed := rfl
@[simp] theorem afterChunk_lalg (lf bf dir : Bool) (r : OpRegs) (s : State) :
    (afterChunk lf bf dir r s).lalg = s.lalg := rfl
@[simp] theorem afterChunk_key (lf bf dir : Bool) (r : OpRegs) (s : State) :
    (afterChunk lf bf dir r s).key = s.key := rfl
@[simp] theorem afterChunk_sched (lf bf dir : Bool) (r : OpRegs) (s : State) :
    (afterChunk lf bf dir r s).sched = s.sched := rfl
@[simp] theorem afterChunk_ctxv (lf bf dir : Bool) (r : OpRegs) (s : State) :
    (afterChunk lf bf dir r s).ctxv = s.ctxv := rfl
@[simp] theorem afterChunk_lmode (lf bf dir : Bool) (r : OpRegs) (s : State) :
    (afterChunk lf bf dir r s).lmode = s.lmode := rfl
@[simp] theorem afterChunk_lpad (lf bf dir : Bool) (r : OpRegs) (s : State) :
    (afterChunk lf bf dir r s).lpad = s.lpad := rfl
@[simp] theorem afterChunk_lctrle (lf bf dir : Bool) (r : OpRegs) (s : State) :
    (afterChunk lf bf dir r s).lctrle = s.lctrle := rfl
@[simp] theorem afterChunk_iv (lf bf dir : Bool) (r : OpRegs) (s : State) :
    (afterChunk lf bf dir r s).iv = s.iv := rfl
@[simp] theorem afterChunk_opact (lf bf dir : Bool) (r : OpRegs) (s : State) :
    (afterChunk lf bf dir r s).opact = (if lf then false else s.opact || bf) := rfl
@[simp] theorem afterChunk_opdir (lf bf dir : Bool) (r : OpRegs) (s : State) :
    (afterChunk lf bf dir r s).opdir = (if bf then dir else s.opdir) := rfl
@[simp] theorem afterChunk_fb (lf bf dir : Bool) (r : OpRegs) (s : State) :
    (afterChunk lf bf dir r s).fb = r.fb := rfl
@[simp] theorem afterChunk_pp (lf bf dir : Bool) (r : OpRegs) (s : State) :
    (afterChunk lf bf dir r s).pp = r.pp := rfl
@[simp] theorem afterChunk_pcr (lf bf dir : Bool) (r : OpRegs) (s : State) :
    (afterChunk lf bf dir r s).pcr = r.pcr := rfl
@[simp] theorem afterChunk_blkidx (lf bf dir : Bool) (r : OpRegs) (s : State) :
    (afterChunk lf bf dir r s).blkidx = r.blk := rfl
@[simp] theorem afterChunk_rc4k (lf bf dir : Bool) (r : OpRegs) (s : State) :
    (afterChunk lf bf dir r s).rc4k = s.rc4k := rfl
@[simp] theorem afterChunk_rcS (lf bf dir : Bool) (r : OpRegs) (s : State) :
    (afterChunk lf bf dir r s).rcS = s.rcS := rfl
@[simp] theorem afterChunk_rcI (lf bf dir : Bool) (r : OpRegs) (s : State) :
    (afterChunk lf bf dir r s).rcI = s.rcI := rfl
@[simp] theorem afterChunk_rcJ (lf bf dir : Bool) (r : OpRegs) (s : State) :
    (afterChunk lf bf dir r s).rcJ = s.rcJ := rfl
@[simp] theorem afterChunk_dhv (lf bf dir : Bool) (r : OpRegs) (s : State) :
    (afterChunk lf bf dir r s).dhv = s.dhv := rfl
@[simp] theorem afterChunk_dhp (lf bf dir : Bool) (r : OpRegs) (s : State) :
    (afterChunk lf bf dir r s).dhp = s.dhp := rfl
@[simp] theorem afterChunk_dhg (lf bf dir : Bool) (r : OpRegs) (s : State) :
    (afterChunk lf bf dir r s).dhg = s.dhg := rfl
@[simp] theorem afterChunk_plen (lf bf dir : Bool) (r : OpRegs) (s : State) :
    (afterChunk lf bf dir r s).plen = s.plen := rfl
@[simp] theorem afterChunk_dhx (lf bf dir : Bool) (r : OpRegs) (s : State) :
    (afterChunk lf bf dir r s).dhx = s.dhx := rfl
@[simp] theorem afterChunk_dhy (lf bf dir : Bool) (r : OpRegs) (s : State) :
    (afterChunk lf bf dir r s).dhy = s.dhy := rfl
@[simp] theorem afterChunk_secv (lf bf dir : Bool) (r : OpRegs) (s : State) :
    (afterChunk lf bf dir r s).secv = s.secv := rfl
@[simp] theorem afterChunk_sreg (lf bf dir : Bool) (r : OpRegs) (s : State) :
    (afterChunk lf bf dir r s).sreg = s.sreg := rfl
@[simp] theorem afterChunk_mem (lf bf dir : Bool) (r : OpRegs) (s : State) :
    (afterChunk lf bf dir r s).mem = s.mem := rfl
@[simp] theorem afterChunk_host (lf bf dir : Bool) (r : OpRegs) (s : State) :
    (afterChunk lf bf dir r s).host = s.host := rfl
@[simp] theorem afterChunk_replies (lf bf dir : Bool) (r : OpRegs) (s : State) :
    (afterChunk lf bf dir r s).replies = s.replies := rfl
@[simp] theorem afterChunk_draws (lf bf dir : Bool) (r : OpRegs) (s : State) :
    (afterChunk lf bf dir r s).draws = s.draws := rfl
@[simp] theorem afterChunk_turns (lf bf dir : Bool) (r : OpRegs) (s : State) :
    (afterChunk lf bf dir r s).turns = s.turns := rfl
@[simp] theorem afterChunk_bufGen (lf bf dir : Bool) (r : OpRegs) (s : State) :
    (afterChunk lf bf dir r s).bufGen = s.bufGen := rfl
@[simp] theorem afterChunk_operands (lf bf dir : Bool) (r : OpRegs) (s : State) :
    (afterChunk lf bf dir r s).operands = s.operands := rfl

/-! softReset -/

@[simp] theorem softReset_regs (s : State) :
    (softReset s).regs = s.regs := rfl
@[simp] theorem softReset_outlen (s : State) :
    (softReset s).outlen = s.outlen := rfl
@[simp] theorem softReset_errcode (s : State) :
    (softReset s).errcode = s.errcode := rfl
@[simp] theorem softReset_done (s : State) :
    (softReset s).done = s.done := rfl
@[simp] theorem softReset_err (s : State) :
    (softReset s).err = s.err := rfl
@[simp] theorem softReset_haz (s : State) :
    (softReset s).haz = false := rfl
@[simp] theorem softReset_inflight (s : State) :
    (softReset s).inflight = s.inflight := rfl
@[simp] theorem softReset_keyed (s : State) :
    (softReset s).keyed = false := rfl
@[simp] theorem softReset_lalg (s : State) :
    (softReset s).lalg = .des := rfl
@[simp] theorem softReset_key (s : State) :
    (softReset s).key = [] := rfl
@[simp] theorem softReset_sched (s : State) :
    (softReset s).sched = .des (List.replicate 16 0#48) := rfl
@[simp] theorem softReset_ctxv (s : State) :
    (softReset s).ctxv = false := rfl
@[simp] theorem softReset_lmode (s : State) :
    (softReset s).lmode = .ecb := rfl
@[simp] theorem softReset_lpad (s : State) :
    (softReset s).lpad = .zeros := rfl
@[simp] theorem softReset_lctrle (s : State) :
    (softReset s).lctrle = false := rfl
@[simp] theorem softReset_iv (s : State) :
    (softReset s).iv = none := rfl
@[simp] theorem softReset_opact (s : State) :
    (softReset s).opact = false := rfl
@[simp] theorem softReset_opdir (s : State) :
    (softReset s).opdir = false := rfl
@[simp] theorem softReset_fb (s : State) :
    (softReset s).fb = zeroBlock := rfl
@[simp] theorem softReset_pp (s : State) :
    (softReset s).pp = zeroBlock := rfl
@[simp] theorem softReset_pcr (s : State) :
    (softReset s).pcr = zeroBlock := rfl
@[simp] theorem softReset_blkidx (s : State) :
    (softReset s).blkidx = 0 := rfl
@[simp] theorem softReset_rc4k (s : State) :
    (softReset s).rc4k = false := rfl
@[simp] theorem softReset_rcS (s : State) :
    (softReset s).rcS = zeroBytes 256 := rfl
@[simp] theorem softReset_rcI (s : State) :
    (softReset s).rcI = 0 := rfl
@[simp] theorem softReset_rcJ (s : State) :
    (softReset s).rcJ = 0 := rfl
@[simp] theorem softReset_dhv (s : State) :
    (softReset s).dhv = false := rfl
@[simp] theorem softReset_dhp (s : State) :
    (softReset s).dhp = 0 := rfl
@[simp] theorem softReset_dhg (s : State) :
    (softReset s).dhg = 0 := rfl
@[simp] theorem softReset_plen (s : State) :
    (softReset s).plen = 0 := rfl
@[simp] theorem softReset_dhx (s : State) :
    (softReset s).dhx = 0 := rfl
@[simp] theorem softReset_dhy (s : State) :
    (softReset s).dhy = 0 := rfl
@[simp] theorem softReset_secv (s : State) :
    (softReset s).secv = false := rfl
@[simp] theorem softReset_sreg (s : State) :
    (softReset s).sreg = 0 := rfl
@[simp] theorem softReset_mem (s : State) :
    (softReset s).mem = s.mem := rfl
@[simp] theorem softReset_host (s : State) :
    (softReset s).host = s.host := rfl
@[simp] theorem softReset_replies (s : State) :
    (softReset s).replies = s.replies := rfl
@[simp] theorem softReset_draws (s : State) :
    (softReset s).draws = s.draws := rfl
@[simp] theorem softReset_turns (s : State) :
    (softReset s).turns = s.turns := rfl
@[simp] theorem softReset_bufGen (s : State) :
    (softReset s).bufGen = s.bufGen := rfl
@[simp] theorem softReset_operands (s : State) :
    (softReset s).operands = s.operands := rfl

/-! hardReset -/

@[simp] theorem hardReset_regs (s : State) :
    (hardReset s).regs = State.reset.regs := rfl
@[simp] theorem hardReset_outlen (s : State) :
    (hardReset s).outlen = State.reset.outlen := rfl
@[simp] theorem hardReset_errcode (s : State) :
    (hardReset s).errcode = State.reset.errcode := rfl
@[simp] theorem hardReset_done (s : State) :
    (hardReset s).done = State.reset.done := rfl
@[simp] theorem hardReset_err (s : State) :
    (hardReset s).err = State.reset.err := rfl
@[simp] theorem hardReset_haz (s : State) :
    (hardReset s).haz = State.reset.haz := rfl
@[simp] theorem hardReset_inflight (s : State) :
    (hardReset s).inflight = State.reset.inflight := rfl
@[simp] theorem hardReset_keyed (s : State) :
    (hardReset s).keyed = State.reset.keyed := rfl
@[simp] theorem hardReset_lalg (s : State) :
    (hardReset s).lalg = State.reset.lalg := rfl
@[simp] theorem hardReset_key (s : State) :
    (hardReset s).key = State.reset.key := rfl
@[simp] theorem hardReset_sched (s : State) :
    (hardReset s).sched = State.reset.sched := rfl
@[simp] theorem hardReset_ctxv (s : State) :
    (hardReset s).ctxv = State.reset.ctxv := rfl
@[simp] theorem hardReset_lmode (s : State) :
    (hardReset s).lmode = State.reset.lmode := rfl
@[simp] theorem hardReset_lpad (s : State) :
    (hardReset s).lpad = State.reset.lpad := rfl
@[simp] theorem hardReset_lctrle (s : State) :
    (hardReset s).lctrle = State.reset.lctrle := rfl
@[simp] theorem hardReset_iv (s : State) :
    (hardReset s).iv = State.reset.iv := rfl
@[simp] theorem hardReset_opact (s : State) :
    (hardReset s).opact = State.reset.opact := rfl
@[simp] theorem hardReset_opdir (s : State) :
    (hardReset s).opdir = State.reset.opdir := rfl
@[simp] theorem hardReset_fb (s : State) :
    (hardReset s).fb = State.reset.fb := rfl
@[simp] theorem hardReset_pp (s : State) :
    (hardReset s).pp = State.reset.pp := rfl
@[simp] theorem hardReset_pcr (s : State) :
    (hardReset s).pcr = State.reset.pcr := rfl
@[simp] theorem hardReset_blkidx (s : State) :
    (hardReset s).blkidx = State.reset.blkidx := rfl
@[simp] theorem hardReset_rc4k (s : State) :
    (hardReset s).rc4k = State.reset.rc4k := rfl
@[simp] theorem hardReset_rcS (s : State) :
    (hardReset s).rcS = State.reset.rcS := rfl
@[simp] theorem hardReset_rcI (s : State) :
    (hardReset s).rcI = State.reset.rcI := rfl
@[simp] theorem hardReset_rcJ (s : State) :
    (hardReset s).rcJ = State.reset.rcJ := rfl
@[simp] theorem hardReset_dhv (s : State) :
    (hardReset s).dhv = State.reset.dhv := rfl
@[simp] theorem hardReset_dhp (s : State) :
    (hardReset s).dhp = State.reset.dhp := rfl
@[simp] theorem hardReset_dhg (s : State) :
    (hardReset s).dhg = State.reset.dhg := rfl
@[simp] theorem hardReset_plen (s : State) :
    (hardReset s).plen = State.reset.plen := rfl
@[simp] theorem hardReset_dhx (s : State) :
    (hardReset s).dhx = State.reset.dhx := rfl
@[simp] theorem hardReset_dhy (s : State) :
    (hardReset s).dhy = State.reset.dhy := rfl
@[simp] theorem hardReset_secv (s : State) :
    (hardReset s).secv = State.reset.secv := rfl
@[simp] theorem hardReset_sreg (s : State) :
    (hardReset s).sreg = State.reset.sreg := rfl
@[simp] theorem hardReset_mem (s : State) :
    (hardReset s).mem = State.reset.mem := rfl
@[simp] theorem hardReset_host (s : State) :
    (hardReset s).host = s.host := rfl
@[simp] theorem hardReset_replies (s : State) :
    (hardReset s).replies = s.replies := rfl
@[simp] theorem hardReset_draws (s : State) :
    (hardReset s).draws = s.draws := rfl
@[simp] theorem hardReset_turns (s : State) :
    (hardReset s).turns = s.turns := rfl
@[simp] theorem hardReset_bufGen (s : State) :
    (hardReset s).bufGen = s.bufGen + 1 := rfl

/-! State.reset -/

@[simp] theorem reset_regs : State.reset.regs = ⟨0, 0, 0, 0, 0, 0⟩ := rfl
@[simp] theorem reset_outlen : State.reset.outlen = 0 := rfl
@[simp] theorem reset_errcode : State.reset.errcode = 0 := rfl
@[simp] theorem reset_done : State.reset.done = false := rfl
@[simp] theorem reset_err : State.reset.err = false := rfl
@[simp] theorem reset_haz : State.reset.haz = false := rfl
@[simp] theorem reset_inflight : State.reset.inflight = none := rfl
@[simp] theorem reset_keyed : State.reset.keyed = false := rfl
@[simp] theorem reset_lalg : State.reset.lalg = .des := rfl
@[simp] theorem reset_key : State.reset.key = [] := rfl
@[simp] theorem reset_sched : State.reset.sched = .des (List.replicate 16 0#48) := rfl
@[simp] theorem reset_ctxv : State.reset.ctxv = false := rfl
@[simp] theorem reset_lmode : State.reset.lmode = .ecb := rfl
@[simp] theorem reset_lpad : State.reset.lpad = .zeros := rfl
@[simp] theorem reset_lctrle : State.reset.lctrle = false := rfl
@[simp] theorem reset_iv : State.reset.iv = none := rfl
@[simp] theorem reset_opact : State.reset.opact = false := rfl
@[simp] theorem reset_opdir : State.reset.opdir = false := rfl
@[simp] theorem reset_fb : State.reset.fb = zeroBlock := rfl
@[simp] theorem reset_pp : State.reset.pp = zeroBlock := rfl
@[simp] theorem reset_pcr : State.reset.pcr = zeroBlock := rfl
@[simp] theorem reset_blkidx : State.reset.blkidx = 0 := rfl
@[simp] theorem reset_rc4k : State.reset.rc4k = false := rfl
@[simp] theorem reset_rcS : State.reset.rcS = zeroBytes 256 := rfl
@[simp] theorem reset_rcI : State.reset.rcI = 0 := rfl
@[simp] theorem reset_rcJ : State.reset.rcJ = 0 := rfl
@[simp] theorem reset_dhv : State.reset.dhv = false := rfl
@[simp] theorem reset_dhp : State.reset.dhp = 0 := rfl
@[simp] theorem reset_dhg : State.reset.dhg = 0 := rfl
@[simp] theorem reset_plen : State.reset.plen = 0 := rfl
@[simp] theorem reset_dhx : State.reset.dhx = 0 := rfl
@[simp] theorem reset_dhy : State.reset.dhy = 0 := rfl
@[simp] theorem reset_secv : State.reset.secv = false := rfl
@[simp] theorem reset_sreg : State.reset.sreg = 0 := rfl
@[simp] theorem reset_mem : State.reset.mem = [] := rfl
@[simp] theorem reset_host : State.reset.host = [] := rfl
@[simp] theorem reset_replies : State.reset.replies = [] := rfl
@[simp] theorem reset_draws : State.reset.draws = 0 := rfl
@[simp] theorem reset_turns : State.reset.turns = 0 := rfl
@[simp] theorem reset_bufGen : State.reset.bufGen = 0 := rfl

end Sys2Proof.Laws
end

