-- ==== Sys2Proof/Laws/Memory.lean ====
section
/-! SUPPORT. The laws of BUF: what a store does to each byte, the canonical form, and reads of byte strings. -/

namespace Sys2Proof.Laws

open Machine

/-! Reading one byte -/

theorem memGet?_append (m n : Memory) (x : Nat) : memGet? (m ++ n) x = (memGet? m x).or (memGet? n x) := by
  induction m with
  | nil => simp [memGet?]
  | cons c m ih => by_cases h : c.1 = x <;> simp [memGet?, h, ih]

theorem memGet?_filter (p : Nat → Bool) (m : Memory) (x : Nat) :
    memGet? (m.filter (fun c => p c.1)) x = if p x then memGet? m x else none := by
  induction m with
  | nil => simp [memGet?]
  | cons c m ih =>
    by_cases hp : p c.1
    · by_cases h : c.1 = x
      · subst h; simp [memGet?, hp]
      · simp [memGet?, hp, h, ih]
    · by_cases h : c.1 = x
      · subst h; simp [hp, ih]
      · simp [memGet?, hp, h, ih]

theorem memGet?_memCells (bs : Bytes) (a x : Nat) :
    memGet? (memCells a bs) x = if a ≤ x then bs[x - a]? else none := by
  induction bs generalizing a with
  | nil => simp [memGet?, memCells]
  | cons b bs ih =>
    simp only [memCells, memGet?, ih]
    rcases Nat.lt_trichotomy a x with h | h | h
    · obtain ⟨k, rfl⟩ : ∃ k, x = a + 1 + k := ⟨x - (a + 1), by omega⟩
      simp [show a + 1 + k - a = k + 1 by omega, show ¬ a = a + 1 + k by omega, show a ≤ a + 1 + k by omega]
    · subst h; simp
    · simp [show ¬ a = x by omega, show ¬ a + 1 ≤ x by omega, show ¬ a ≤ x by omega]

/-- What a store does to each byte: the stored bytes inside the range, nothing outside it. -/
theorem memGet?_memWrite (m : Memory) (a : Nat) (bs : Bytes) (x : Nat) :
    memGet? (memWrite m a bs) x = if a ≤ x ∧ x < a + bs.length then bs[x - a]? else memGet? m x := by
  have h1 := memGet?_filter (fun y => decide (y < a)) m x
  have h2 := memGet?_filter (fun y => decide (a + bs.length ≤ y)) m x
  simp only [memWrite, memGet?_append, memGet?_memCells, h1, h2]
  by_cases ha : a ≤ x
  · by_cases hb : x < a + bs.length
    · have hlt : x - a < bs.length := by omega
      simp [ha, hb, show ¬ x < a by omega, List.getElem?_eq_getElem hlt]
    · simp [ha, hb, show ¬ x < a by omega, show a + bs.length ≤ x by omega,
        List.getElem?_eq_none (show bs.length ≤ x - a by omega)]
  · simp [ha, show x < a by omega, show ¬ a + bs.length ≤ x by omega]

/-- Where a store leaves nothing at all listed. -/
theorem memWrite_nil_bytes (m : Memory) (a : Nat) (x : Nat) : memGet? (memWrite m a []) x = memGet? m x := by
  rw [memGet?_memWrite, if_neg]
  simp only [List.length_nil]
  omega

/-! The canonical form -/

theorem wf_iff_pairwise (m : Memory) : Memory.wf m = true ↔ m.Pairwise (fun c d => c.1 < d.1) := by
  match m with
  | [] => simp [Memory.wf]
  | [c] => simp [Memory.wf]
  | c :: d :: m =>
    simp only [Memory.wf, Bool.and_eq_true, decide_eq_true_eq, wf_iff_pairwise (d :: m), List.pairwise_cons]
    constructor
    · rintro ⟨hcd, hd, hm⟩
      refine ⟨?_, hd, hm⟩
      intro e he
      rcases List.mem_cons.1 he with rfl | he
      · exact hcd
      · exact lt_trans hcd (hd e he)
    · rintro ⟨hc, hd, hm⟩
      exact ⟨hc d (by simp), hd, hm⟩

theorem mem_memCells {c : Host.Cell} {bs : Bytes} {a : Nat} (h : c ∈ memCells a bs) : a ≤ c.1 ∧ c.1 < a + bs.length := by
  induction bs generalizing a with
  | nil => simp [memCells] at h
  | cons b bs ih =>
    rcases List.mem_cons.1 h with rfl | h
    · simp
    · have := ih h
      simp only [List.length_cons]
      omega

theorem memCells_pairwise (bs : Bytes) (a : Nat) : (memCells a bs).Pairwise (fun c d => c.1 < d.1) := by
  induction bs generalizing a with
  | nil => simp [memCells]
  | cons b bs ih =>
    refine List.pairwise_cons.2 ⟨fun d hd => ?_, ih (a + 1)⟩
    have := mem_memCells hd
    show a < d.1
    omega

/-- A store keeps the canonical form. -/
theorem memWrite_wf {m : Memory} (h : Memory.wf m = true) (a : Nat) (bs : Bytes) : Memory.wf (memWrite m a bs) = true := by
  rw [wf_iff_pairwise] at h ⊢
  rw [memWrite, List.pairwise_append, List.pairwise_append]
  refine ⟨⟨h.filter _, memCells_pairwise bs a, ?_⟩, h.filter _, ?_⟩
  · intro c hc d hd
    have h1 := mem_memCells hd
    have h2 := (List.mem_filter.1 hc).2
    simp only [decide_eq_true_eq] at h2
    omega
  · intro c hc d hd
    have h2 := (List.mem_filter.1 hd).2
    simp only [decide_eq_true_eq] at h2
    rcases List.mem_append.1 hc with hc | hc
    · have h1 := (List.mem_filter.1 hc).2
      simp only [decide_eq_true_eq] at h1
      omega
    · have h1 := mem_memCells hc
      omega

/-- The memory of the reset state has the canonical form. -/
theorem reset_mem_wf : Memory.wf State.reset.mem = true := rfl

/-- A store inside BUF keeps every listed offset inside BUF. -/
theorem memWrite_inside {m : Memory} {n : Nat} (h : ∀ c ∈ m, c.1 < n) {a : Nat} {bs : Bytes} (hb : a + bs.length ≤ n) :
    ∀ c ∈ memWrite m a bs, c.1 < n := by
  intro c hc
  simp only [memWrite, List.mem_append] at hc
  rcases hc with (hc | hc) | hc
  · exact h c (List.mem_filter.1 hc).1
  · have := mem_memCells hc
    omega
  · exact h c (List.mem_filter.1 hc).1

theorem memGet?_of_lt {m : Memory} {x : Nat} (h : ∀ c ∈ m, x < c.1) : memGet? m x = none := by
  induction m with
  | nil => rfl
  | cons c m ih =>
    have hc := h c (by simp)
    simp [memGet?, show ¬ c.1 = x by omega, ih fun d hd => h d (by simp [hd])]

/-- In the canonical form equal memories are equal data. -/
theorem mem_ext {m n : Memory} (hm : Memory.wf m = true) (hn : Memory.wf n = true)
    (h : ∀ x, memGet? m x = memGet? n x) : m = n := by
  rw [wf_iff_pairwise] at hm hn
  induction m generalizing n with
  | nil =>
    cases n with
    | nil => rfl
    | cons d n => simpa [memGet?] using h d.1
  | cons c m ih =>
    cases n with
    | nil => simpa [memGet?] using h c.1
    | cons d n =>
      obtain ⟨hc, hm'⟩ := List.pairwise_cons.1 hm
      obtain ⟨hd, hn'⟩ := List.pairwise_cons.1 hn
      have hcd : c.1 = d.1 := by
        rcases Nat.lt_trichotomy c.1 d.1 with hlt | heq | hlt
        · have := h c.1
          rw [memGet?_of_lt (m := d :: n) (by
            intro e he
            rcases List.mem_cons.1 he with rfl | he
            · exact hlt
            · exact lt_trans hlt (hd e he))] at this
          simp [memGet?] at this
        · exact heq
        · have := h d.1
          rw [memGet?_of_lt (m := c :: m) (by
            intro e he
            rcases List.mem_cons.1 he with rfl | he
            · exact hlt
            · exact lt_trans hlt (hc e he))] at this
          simp [memGet?] at this
      have hv : c.2 = d.2 := by simpa [memGet?, hcd] using h c.1
      have hce : c = d := Prod.ext hcd hv
      subst hce
      congr 1
      refine ih hm' hn' fun x => ?_
      by_cases hx : c.1 = x
      · subst hx
        rw [memGet?_of_lt fun e he => hc e he, memGet?_of_lt fun e he => hd e he]
      · simpa [memGet?, hx] using h x

/-! BUF in the state -/

/-- What a store to BUF does to each byte. -/
theorem bufByte_bufWrite (s : State) (a : Nat) (v : Bytes) (x : Nat) :
    bufByte (bufWrite s a v) x = if h : a ≤ x ∧ x < a + v.length then v[x - a]'(by omega) else bufByte s x := by
  simp only [bufByte, bufWrite_mem, bufWrite_bufGen, memGet?_memWrite]
  by_cases h : a ≤ x ∧ x < a + v.length
  · simp [h, List.getElem?_eq_getElem (show x - a < v.length by omega)]
  · simp [h]

/-- A byte outside the stored range reads as before. -/
theorem bufByte_bufWrite_outside (s : State) {a : Nat} {v : Bytes} {x : Nat} (h : x < a ∨ a + v.length ≤ x) :
    bufByte (bufWrite s a v) x = bufByte s x := by
  rw [bufByte_bufWrite, dif_neg (by omega)]

/-- A byte depends on BUF and its generation only. -/
theorem bufByte_congr {s t : State} (hm : s.mem = t.mem) (hg : s.bufGen = t.bufGen) (x : Nat) : bufByte s x = bufByte t x := by
  simp [bufByte, hm, hg]

theorem bufRead_congr {s t : State} (hm : s.mem = t.mem) (hg : s.bufGen = t.bufGen) (a n : Nat) :
    bufRead s a n = bufRead t a n := by
  induction n generalizing a with
  | zero => rfl
  | succ n ih => simp [bufRead, ih, bufByte_congr hm hg]

@[simp] theorem bufRead_length (s : State) (a n : Nat) : (bufRead s a n).length = n := by
  induction n generalizing a with
  | zero => rfl
  | succ n ih => simp [bufRead, ih]

theorem bufRead_getElem (s : State) (a n k : Nat) (h : k < (bufRead s a n).length) :
    (bufRead s a n)[k] = bufByte s (a + k) := by
  induction n generalizing a k with
  | zero => simp [bufRead] at h
  | succ n ih =>
    cases k with
    | zero => simp [bufRead]
    | succ k =>
      simp only [bufRead, List.getElem_cons_succ, ih]
      congr 1
      omega

/-- A byte string just stored reads back. -/
theorem bufRead_bufWrite (s : State) (a : Nat) (v : Bytes) : bufRead (bufWrite s a v) a v.length = v := by
  refine List.ext_getElem (by simp) fun k hk hv => ?_
  rw [bufRead_getElem, bufByte_bufWrite, dif_pos (by omega)]
  simp

end Sys2Proof.Laws
end

