-- ==== Sys2Proof/Laws/Lengths.lean ====
section
/-! SUPPORT. How many bytes each byte-string function gives. -/

namespace Sys2Proof.Laws

open Machine

@[simp] theorem toLE_length (n v : Nat) : (toLE n v).length = n := by
  induction n generalizing v with
  | zero => rfl
  | succ n ih => simp [toLE, ih]

@[simp] theorem toBE_length (n v : Nat) : (toBE n v).length = n := by simp [toBE]

@[simp] theorem zeroBytes_length (n : Nat) : (zeroBytes n).length = n := by simp [zeroBytes]

@[simp] theorem xorBytes_length (a b : Bytes) : (xorBytes a b).length = min a.length b.length := by simp [xorBytes]

@[simp] theorem drawBytes_length (g n : Nat) : (drawBytes g n).length = n := by
  induction n generalizing g with
  | zero => rfl
  | succ n ih => simp [drawBytes, ih]

@[simp] theorem desEncrypt_length (ks : List (BitVec 48)) (x : Bytes) : (desEncrypt ks x).length = 8 := by
  simp [desEncrypt]

@[simp] theorem desDecrypt_length (ks : List (BitVec 48)) (x : Bytes) : (desDecrypt ks x).length = 8 := by
  simp [desDecrypt]

@[simp] theorem lokiEncrypt_length (ks : List (BitVec 64)) (x : Bytes) : (lokiEncrypt ks x).length = 16 := by
  simp [lokiEncrypt]

@[simp] theorem lokiDecrypt_length (ks : List (BitVec 64)) (x : Bytes) : (lokiDecrypt ks x).length = 16 := by
  simp [lokiDecrypt]

/-- E gives one block of the cipher, whatever it is given. -/
@[simp] theorem encryptBlock_length (a : Alg) (key x : Bytes) :
    (encryptBlock (scheduleOf a key) x).length = a.blockSize := by
  cases a <;> simp [encryptBlock, scheduleOf, tdesEncrypt, Alg.blockSize]

/-- D gives one block of the cipher, whatever it is given. -/
@[simp] theorem decryptBlock_length (a : Alg) (key x : Bytes) :
    (decryptBlock (scheduleOf a key) x).length = a.blockSize := by
  cases a <;> simp [decryptBlock, scheduleOf, tdesDecrypt, Alg.blockSize]

@[simp] theorem sha256_length (m : Bytes) : (sha256 m).length = 32 := by simp [sha256]

@[simp] theorem rc4Process_length (r : Rc4State) (x : Bytes) : (rc4Process r x).1.length = x.length := by
  induction x generalizing r with
  | nil => rfl
  | cons b x ih => simp [rc4Process, ih]

@[simp] theorem rc4Swap_length (s : Bytes) (i j : Nat) : (rc4Swap s i j).length = s.length := by simp [rc4Swap]

/-- With a filler of the drawn length, padding adds pad_len bytes (R107). -/
theorem padBytes_length (sch : Scheme) (data : Bytes) (bs : Nat) (filler : Bytes)
    (hbs : 0 < bs) (hf : filler.length = padDraws sch data.length bs) :
    (padBytes sch data bs filler).length = data.length + padLen sch data.length bs := by
  have hpos : 0 < bs - data.length % bs := Nat.sub_pos_of_lt (Nat.mod_lt _ hbs)
  cases sch <;> simp_all [padBytes, padTail, padDraws, padLen] <;> omega

theorem stripZeros_length_le (data : Bytes) : (stripZeros data).length ≤ data.length := by
  have := List.length_dropWhile_le (p := fun b => b == 0#8) (l := data.reverse)
  simpa [stripZeros] using this

theorem stripCounted_length_le (f : Byte → Bytes → Bool) (data : Bytes) (bs : Nat) :
    (stripCounted f data bs).length ≤ data.length := by
  unfold stripCounted
  split
  · exact le_rfl
  · split
    · exact le_rfl
    · split <;> simp

/-- Unpadding never lengthens (R119). -/
theorem unpadBytes_length_le (sch : Scheme) (data : Bytes) (bs : Nat) : (unpadBytes sch data bs).length ≤ data.length := by
  cases sch
  · exact stripZeros_length_le data
  · exact stripCounted_length_le _ data bs
  · exact stripCounted_length_le _ data bs
  · exact stripCounted_length_le _ data bs

@[simp] theorem splitMixBytes_length (n : Nat) (st : BitVec 64) : (splitMixBytes n st).length = 8 * n := by
  induction n generalizing st with
  | zero => rfl
  | succ n ih => simp [splitMixBytes, ih]; omega

/-- The generator gives the n bytes asked for (R133). -/
@[simp] theorem rdPrng_length (seed : Word) (n : Nat) : (rdPrng seed n).length = n := by
  simp [rdPrng, truncBytes]; omega

@[simp] theorem rdMask_length (iv : Bytes) (b : Nat) (k : BitVec 64) : (rdMask iv b k).length = b := by simp [rdMask]

/-- The counter block has the length of a block (R131). -/
theorem ctrBlock_length (iv : Bytes) (le : Bool) (b : Nat) (k : BitVec 64) (hb : 8 ≤ b) (hiv : iv.length = b) :
    (ctrBlock iv le b k).length = b := by
  cases le <;> simp [ctrBlock, hiv] <;> omega

end Sys2Proof.Laws
end

