-- ==== Sys2Proof/Laws/Ops.lean ====
section
/-! SUPPORT. What the shared operations of the engine and of the host port can do, said once. -/

namespace Sys2Proof.Laws

open Machine

/-! Checks -/

/-- The checks pass when none of them fails. -/
theorem firstError_eq_none_iff (cs : List (Bool × ErrorKind)) : firstError cs = none ↔ ∀ c ∈ cs, c.1 = false := by
  induction cs with
  | nil => simp [firstError]
  | cons c cs ih =>
    obtain ⟨b, e⟩ := c
    cases b <;> simp [firstError, ih]

/-- The error reported is one of the list's, and its check failed. -/
theorem firstError_mem {cs : List (Bool × ErrorKind)} {e : ErrorKind} (h : firstError cs = some e) : (true, e) ∈ cs := by
  induction cs with
  | nil => simp [firstError] at h
  | cons c cs ih =>
    obtain ⟨b, k⟩ := c
    cases b
    · simp only [firstError, Bool.false_eq_true, if_false] at h
      exact List.mem_cons_of_mem _ (ih h)
    · simp only [firstError, if_true, Option.some.injEq] at h
      simp [h]

theorem afterChecks_pass {cs : List (Bool × ErrorKind)} (h : firstError cs = none) (b : Bool) (ok s : State) :
    afterChecks b cs ok s = ok := by simp [afterChecks, h]

theorem afterChecks_fail {cs : List (Bool × ErrorKind)} {e : ErrorKind} (h : firstError cs = some e) (b : Bool)
    (ok s : State) : afterChecks b cs ok s = raiseError b e s := by simp [afterChecks, h]

/-- A command either has its effect, all checks passed, or raises the first error and nothing else. -/
theorem afterChecks_cases (b : Bool) (cs : List (Bool × ErrorKind)) (ok s : State) :
    (firstError cs = none ∧ afterChecks b cs ok s = ok) ∨
    ∃ e, firstError cs = some e ∧ afterChecks b cs ok s = raiseError b e s := by
  cases h : firstError cs with
  | none => exact .inl ⟨rfl, afterChecks_pass h b ok s⟩
  | some e => exact .inr ⟨e, rfl, afterChecks_fail h b ok s⟩

/-! The block functions keep what they do not name -/

@[simp] theorem countBlock_fst (p : Bytes × OpRegs) : (countBlock p).1 = p.1 := rfl
@[simp] theorem countBlock_fb (p : Bytes × OpRegs) : (countBlock p).2.fb = p.2.fb := rfl
@[simp] theorem countBlock_pp (p : Bytes × OpRegs) : (countBlock p).2.pp = p.2.pp := rfl
@[simp] theorem countBlock_pcr (p : Bytes × OpRegs) : (countBlock p).2.pcr = p.2.pcr := rfl
@[simp] theorem countBlock_blk (p : Bytes × OpRegs) : (countBlock p).2.blk = p.2.blk + 1 := rfl

theorem encBlockCore_blk (e : Bytes → Bytes) (c : ModeCtx) (r : OpRegs) (x : Bytes) :
    (encBlockCore e c r x).2.blk = r.blk := by
  unfold encBlockCore; split <;> rfl

theorem decBlockCore_blk (e d : Bytes → Bytes) (c : ModeCtx) (r : OpRegs) (x : Bytes) :
    (decBlockCore e d c r x).2.blk = r.blk := by
  unfold decBlockCore; split <;> rfl

/-- Every block counts once (43_modes.md section 3). -/
theorem opBlock_blk (k : KeySchedule) (c : ModeCtx) (dir : Bool) (r : OpRegs) (x : Bytes) :
    (opBlock k c dir r x).2.blk = r.blk + 1 := by
  unfold opBlock
  split <;> simp [encBlockCore_blk, decBlockCore_blk]

@[simp] theorem runBlocks_nil (f : OpRegs → Bytes → Bytes × OpRegs) (r : OpRegs) : runBlocks f r [] = ([], r) := rfl

theorem runBlocks_cons (f : OpRegs → Bytes → Bytes × OpRegs) (r : OpRegs) (x : Bytes) (xs : List Bytes) :
    runBlocks f r (x :: xs) = ((f r x).1 ++ (runBlocks f (f r x).2 xs).1, (runBlocks f (f r x).2 xs).2) := rfl

/-- A list of blocks run in two parts. -/
theorem runBlocks_append (f : OpRegs → Bytes → Bytes × OpRegs) (r : OpRegs) (xs ys : List Bytes) :
    runBlocks f r (xs ++ ys)
      = ((runBlocks f r xs).1 ++ (runBlocks f (runBlocks f r xs).2 ys).1, (runBlocks f (runBlocks f r xs).2 ys).2) := by
  induction xs generalizing r with
  | nil => simp
  | cons x xs ih => simp [runBlocks_cons, ih, List.append_assoc]

/-! The host port -/

/-- What a host read can do: a bus error, a reply with nothing else changed, or a free reply with HAZ set. -/
theorem hostRead_cases {w : Width} {off : Nat} {s t : State} (h : hostRead w off s = .next t) :
    (∃ r, accessOf w off = .ok (.reg r) ∧ t = answer (.b32 (regRead s r)) s) ∨
    ∃ a n, accessOf w off = .ok (.buf a n) ∧
      ((s.busy = true ∧ t = answer (replyOf n (Config.busyRead s.draws)) (setHaz { s with draws := s.draws + 1 })) ∨
        (s.busy = false ∧ t = answer (replyOf n (bufValue s a n)) s)) := by
  unfold hostRead at h
  split at h
  · cases h
  · rename_i r hr
    cases h
    exact .inl ⟨r, hr, rfl⟩
  · rename_i a n hr
    refine .inr ⟨a, n, hr, ?_⟩
    cases hb : s.busy <;> simp only [hb] at h <;> cases h
    · exact .inr ⟨rfl, rfl⟩
    · exact .inl ⟨rfl, rfl⟩

/-- What a host write can do: a bus error, a dropped write with HAZ set, a register write or a store to BUF. -/
theorem hostWrite_cases {w : Width} {off : Nat} {v : Word} {s t : State} (h : hostWrite w off v s = .next t) :
    (s.busy = true ∧ t = setHaz s) ∨
    (s.busy = false ∧ ∃ r, accessOf w off = .ok (.reg r) ∧ t = regWrite r v s) ∨
    (s.busy = false ∧ ∃ a n, accessOf w off = .ok (.buf a n) ∧ t = bufWrite s a (toLE n v.toNat)) := by
  unfold hostWrite at h
  split at h
  · cases h
  · rename_i r hr
    cases hb : s.busy <;> simp only [hb] at h <;> cases h
    · exact .inr (.inl ⟨rfl, r, hr, rfl⟩)
    · exact .inl ⟨rfl, rfl⟩
  · rename_i a n hr
    cases hb : s.busy <;> simp only [hb] at h <;> cases h
    · exact .inr (.inr ⟨rfl, a, n, hr, rfl⟩)
    · exact .inl ⟨rfl, rfl⟩

/-- What a write to the register window can do. -/
theorem regWrite_cases (off : Nat) (v : Word) (s : State) :
    regWrite off v s = issue v s ∨ regWrite off v s = ackStatus v s ∨
    ∃ ops : Operands, regWrite off v s = { s with regs := ops } ∧
      (ops.ctrl = s.regs.ctrl ∨ ops.ctrl = v &&& ctrlMask) := by
  unfold regWrite
  split
  · exact .inr (.inr ⟨_, rfl, .inr rfl⟩)
  · exact .inl rfl
  · exact .inr (.inl rfl)
  · exact .inr (.inr ⟨_, rfl, .inl rfl⟩)
  · exact .inr (.inr ⟨_, rfl, .inl rfl⟩)
  · exact .inr (.inr ⟨_, rfl, .inl rfl⟩)
  · exact .inr (.inr ⟨_, rfl, .inl rfl⟩)
  · exact .inr (.inr ⟨_, rfl, .inl rfl⟩)
  · exact .inr (.inr ⟨s.regs, rfl, .inl rfl⟩)

/-- What a host step can do. -/
theorem hostStep_cases {op : HostOp} {s t : State} (h : hostStep op s = .next t) :
    (∃ w off, op = .read w off ∧ hostRead w off s = .next t) ∨
    (∃ w off v, op = .write w off v ∧ hostWrite w off v s = .next t) ∨
    (op = .wait ∧ t = s) ∨ (op = .reset ∧ t = hardReset s) := by
  cases op with
  | read w off => exact .inl ⟨w, off, rfl, h⟩
  | write w off v => exact .inr (.inl ⟨w, off, v, rfl, h⟩)
  | wait => cases h; exact .inr (.inr (.inl ⟨rfl, rfl⟩))
  | reset => cases h; exact .inr (.inr (.inr ⟨rfl, rfl⟩))

/-! The step -/

/-- What the engine's step can do. -/
theorem engineStep_cases {s t : State} (h : engineStep s = .next t) :
    (s.inflight = none ∧ t = s) ∨
    (∃ c i, s.inflight = some c ∧ decode c.word = .ok i ∧ exec i s = .next t) ∨
    (∃ c e, s.inflight = some c ∧ decode c.word = .error e ∧ t = raiseError false .illegalCommand s) := by
  unfold engineStep at h
  split at h
  · rename_i hi
    cases h
    exact .inl ⟨hi, rfl⟩
  · rename_i c hi
    split at h
    · rename_i i hd
      exact .inr (.inl ⟨c, i, hi, hd, h⟩)
    · rename_i e hd
      cases h
      exact .inr (.inr ⟨c, e, hi, hd, rfl⟩)

/-- What a step can do: the engine's step, or one host step on the state with the access taken off the list. -/
theorem step_cases {s t : State} (h : step s = .next t) :
    (s.host = [] ∧ engineStep s = .next t) ∨
    (∃ op rest, s.host = op :: rest ∧ s.busy = true ∧ engineStep (afterTurn op s) = .next t) ∨
    (∃ op rest, s.host = op :: rest ∧ hostStep op { afterTurn op s with host := rest } = .next t) := by
  unfold step nextMove at h
  split at h
  · rename_i hh
    exact .inl ⟨hh, h⟩
  · rename_i op rest hh
    split at h
    · rename_i hm
      simp only [engineMoves, Bool.and_eq_true] at hm
      exact .inr (.inl ⟨op, rest, hh, hm.1, h⟩)
    · exact .inr (.inr ⟨op, rest, hh, h⟩)

/-- A free arbitration changes the model's counter only. -/
theorem afterTurn_cases (op : HostOp) (s : State) : afterTurn op s = s ∨ afterTurn op s = { s with turns := s.turns + 1 } := by
  unfold afterTurn
  split
  · exact .inr rfl
  · exact .inl rfl

end Sys2Proof.Laws
end

