-- ==== Sys2Proof/Laws/Commands.lean ====
section
/-! SUPPORT. What each command can do, said once: the error it raises, or its effect with every check passed. The provers cite
these instead of unfolding the meanings. -/

namespace Sys2Proof.Laws

open Machine

/-- No command stops: each answers a next state (60_exceptions.md R159). -/
theorem exec_next (i : Instr) (s : State) : ∃ t, exec i s = .next t := by
  cases i <;> exact ⟨_, rfl⟩

theorem execNop_eq (s : State) : execNop s = .next (complete 0 s) := rfl

theorem execSrst_eq (s : State) : execSrst s = .next (complete 0 (softReset s)) := rfl

theorem execKey_cases {s t : State} (h : execKey s = .next t) :
    (∃ e, t = raiseError false e s) ∨
    ∃ a, algOf s.operands.algCode = some a ∧ a.legalKeyLength s.operands.lenN = true ∧
      inBuf s.operands.srcN s.operands.lenN = true ∧
      t = complete 0
        { s with key := bufRead s s.operands.srcN s.operands.lenN, lalg := a, keyed := true,
                 sched := scheduleOf a (bufRead s s.operands.srcN s.operands.lenN),
                 ctxv := false, iv := none, opact := false } := by
  cases h
  split
  · exact .inl ⟨_, rfl⟩
  · rename_i a ha
    unfold keyWith
    rcases afterChecks_cases false
      [(!a.legalKeyLength s.operands.lenN, .invalidKeySize),
       (!inBuf s.operands.srcN s.operands.lenN, .addressError)] _ s with ⟨hc, ht⟩ | ⟨e, -, ht⟩
    · simp only [firstError_eq_none_iff, List.mem_cons, List.not_mem_nil, or_false, forall_eq_or_imp, forall_eq,
        Bool.not_eq_false'] at hc
      exact .inr ⟨a, ha, hc.1, hc.2, ht⟩
    · exact .inl ⟨e, ht⟩

theorem oneBlock_cases (f : KeySchedule → Bytes → Bytes) (s : State) :
    (∃ e, oneBlock f s = raiseError false e s) ∨
    (s.keyed = true ∧ s.operands.lenN = s.blockSize ∧ inBuf s.operands.srcN s.blockSize = true ∧
      inBuf s.operands.dstN s.blockSize = true ∧
      oneBlock f s = complete s.blockSize
        (bufWrite s s.operands.dstN (f s.sched (bufRead s s.operands.srcN s.blockSize)))) := by
  unfold oneBlock
  rcases afterChecks_cases false
    [(!s.keyed, .stateError), (decide (s.operands.lenN ≠ s.blockSize), .invalidBlockSize),
     (!inBuf s.operands.srcN s.blockSize || !inBuf s.operands.dstN s.blockSize, .addressError)] _ s
    with ⟨hc, ht⟩ | ⟨e, -, ht⟩
  · simp only [firstError_eq_none_iff, List.mem_cons, List.not_mem_nil, or_false, forall_eq_or_imp, forall_eq,
      Bool.not_eq_false', decide_eq_false_iff_not, not_not, Bool.or_eq_false_iff] at hc
    exact .inr ⟨hc.1, hc.2.1, hc.2.2.1, hc.2.2.2, ht⟩
  · exact .inl ⟨e, ht⟩

theorem execEncb_cases {s t : State} (h : execEncb s = .next t) :
    (∃ e, t = raiseError false e s) ∨
    (s.keyed = true ∧ s.operands.lenN = s.blockSize ∧ inBuf s.operands.srcN s.blockSize = true ∧
      inBuf s.operands.dstN s.blockSize = true ∧
      t = complete s.blockSize
        (bufWrite s s.operands.dstN (encryptBlock s.sched (bufRead s s.operands.srcN s.blockSize)))) := by
  cases h; exact oneBlock_cases encryptBlock s

theorem execDecb_cases {s t : State} (h : execDecb s = .next t) :
    (∃ e, t = raiseError false e s) ∨
    (s.keyed = true ∧ s.operands.lenN = s.blockSize ∧ inBuf s.operands.srcN s.blockSize = true ∧
      inBuf s.operands.dstN s.blockSize = true ∧
      t = complete s.blockSize
        (bufWrite s s.operands.dstN (decryptBlock s.sched (bufRead s s.operands.srcN s.blockSize)))) := by
  cases h; exact oneBlock_cases decryptBlock s

theorem execRc4key_cases {s t : State} (h : execRc4key s = .next t) :
    (∃ e, t = raiseError false e s) ∨
    (0 < s.operands.lenN ∧ s.operands.lenN ≤ 256 ∧ inBuf s.operands.srcN s.operands.lenN = true ∧
      t = complete 0
        { s with rcS := ksa (bufRead s s.operands.srcN s.operands.lenN), rcI := 0, rcJ := 0, rc4k := true }) := by
  cases h
  rcases afterChecks_cases false
    [(decide (s.operands.lenN = 0 ∨ 256 < s.operands.lenN), .invalidKeySize),
     (!inBuf s.operands.srcN s.operands.lenN, .addressError)] _ s with ⟨hc, ht⟩ | ⟨e, -, ht⟩
  · simp only [firstError_eq_none_iff, List.mem_cons, List.not_mem_nil, or_false, forall_eq_or_imp, forall_eq,
      Bool.not_eq_false', decide_eq_false_iff_not, not_or, not_lt] at hc
    exact .inr ⟨Nat.pos_of_ne_zero hc.1.1, hc.1.2, hc.2, ht⟩
  · exact .inl ⟨e, ht⟩

theorem execRc4_cases {s t : State} (h : execRc4 s = .next t) :
    (∃ e, t = raiseError false e s) ∨
    (s.rc4k = true ∧ inBuf s.operands.srcN s.operands.lenN = true ∧ inBuf s.operands.dstN s.operands.lenN = true ∧
      t = complete s.operands.lenN
        (bufWrite
          { s with rcS := (rc4Process s.rc4 (bufRead s s.operands.srcN s.operands.lenN)).2.s,
                   rcI := (rc4Process s.rc4 (bufRead s s.operands.srcN s.operands.lenN)).2.i,
                   rcJ := (rc4Process s.rc4 (bufRead s s.operands.srcN s.operands.lenN)).2.j }
          s.operands.dstN (rc4Process s.rc4 (bufRead s s.operands.srcN s.operands.lenN)).1)) := by
  cases h
  rcases afterChecks_cases false
    [(!s.rc4k, .stateError),
     (!inBuf s.operands.srcN s.operands.lenN || !inBuf s.operands.dstN s.operands.lenN, .addressError)] _ s
    with ⟨hc, ht⟩ | ⟨e, -, ht⟩
  · simp only [firstError_eq_none_iff, List.mem_cons, List.not_mem_nil, or_false, forall_eq_or_imp, forall_eq,
      Bool.not_eq_false', Bool.or_eq_false_iff] at hc
    exact .inr ⟨hc.1, hc.2.1, hc.2.2, ht⟩
  · exact .inl ⟨e, ht⟩

theorem execPad_cases {bs : Nat} {s t : State} (h : execPad bs s = .next t) :
    (∃ e, t = raiseError false e s) ∨
    ∃ sch, schemeOf s.operands.padCode = some sch ∧ bs ≠ 0 ∧ inBuf s.operands.srcN s.operands.lenN = true ∧
      inBuf s.operands.dstN (s.operands.lenN + padLen sch s.operands.lenN bs) = true ∧
      t = complete (s.operands.lenN + padLen sch s.operands.lenN bs)
        (bufWrite { s with draws := s.draws + padDraws sch s.operands.lenN bs } s.operands.dstN
          (padBytes sch (bufRead s s.operands.srcN s.operands.lenN) bs
            (drawBytes s.draws (padDraws sch s.operands.lenN bs)))) := by
  cases h
  split
  · exact .inl ⟨_, rfl⟩
  · rename_i sch hs
    unfold padWith
    rcases afterChecks_cases false
      [(decide (bs = 0), .invalidBlockSize),
       (!inBuf s.operands.srcN s.operands.lenN ||
         !inBuf s.operands.dstN (s.operands.lenN + padLen sch s.operands.lenN bs), .addressError)] _ s
      with ⟨hc, ht⟩ | ⟨e, -, ht⟩
    · simp only [firstError_eq_none_iff, List.mem_cons, List.not_mem_nil, or_false, forall_eq_or_imp, forall_eq,
        Bool.not_eq_false', decide_eq_false_iff_not, Bool.or_eq_false_iff] at hc
      exact .inr ⟨sch, hs, hc.1, hc.2.1, hc.2.2, ht⟩
    · exact .inl ⟨e, ht⟩

theorem execUnpad_cases {bs : Nat} {s t : State} (h : execUnpad bs s = .next t) :
    (∃ e, t = raiseError false e s) ∨
    ∃ sch, schemeOf s.operands.padCode = some sch ∧ bs ≠ 0 ∧ inBuf s.operands.srcN s.operands.lenN = true ∧
      inBuf s.operands.dstN s.operands.lenN = true ∧
      t = complete (unpadBytes sch (bufRead s s.operands.srcN s.operands.lenN) bs).length
        (bufWrite s s.operands.dstN (unpadBytes sch (bufRead s s.operands.srcN s.operands.lenN) bs)) := by
  cases h
  split
  · exact .inl ⟨_, rfl⟩
  · rename_i sch hs
    unfold unpadWith
    rcases afterChecks_cases false
      [(decide (bs = 0), .invalidBlockSize),
       (!inBuf s.operands.srcN s.operands.lenN || !inBuf s.operands.dstN s.operands.lenN, .addressError)] _ s
      with ⟨hc, ht⟩ | ⟨e, -, ht⟩
    · simp only [firstError_eq_none_iff, List.mem_cons, List.not_mem_nil, or_false, forall_eq_or_imp, forall_eq,
        Bool.not_eq_false', decide_eq_false_iff_not, Bool.or_eq_false_iff] at hc
      exact .inr ⟨sch, hs, hc.1, hc.2.1, hc.2.2, ht⟩
    · exact .inl ⟨e, ht⟩

theorem execCtx_cases {s t : State} (h : execCtx s = .next t) :
    (∃ e, t = raiseError true e s) ∨
    ∃ m p, s.keyed = true ∧ modeOf s.operands.modeCode = some m ∧ schemeOf s.operands.padCode = some p ∧
      ((m = .ecb ∧ s.operands.ivp = false) ∨
        (m ≠ .ecb ∧ s.operands.ivp = true ∧ s.operands.len2N = s.blockSize ∧
          inBuf s.operands.src2N s.blockSize = true)) ∧
      t = complete 0
        { s with iv := if m = .ecb then none else some (bufRead s s.operands.src2N s.blockSize),
                 lmode := m, lpad := p, lctrle := s.operands.ctrle, ctxv := true, opact := false } := by
  cases h
  split
  · rename_i hk
    split
    · exact .inl ⟨_, rfl⟩
    · rename_i m hm
      split
      · exact .inl ⟨_, rfl⟩
      · rename_i p hp
        unfold ctxWith
        rcases afterChecks_cases true
          (if m = .ecb then [(s.operands.ivp, ErrorKind.invalidIv)]
            else [(!s.operands.ivp || decide (s.operands.len2N ≠ s.blockSize), .invalidIv),
              (!inBuf s.operands.src2N s.blockSize, .addressError)]) _ s with ⟨hc, ht⟩ | ⟨e, -, ht⟩
        · refine .inr ⟨m, p, hk, hm, hp, ?_, ht⟩
          by_cases he : m = .ecb
          · simp only [he, if_true, firstError_eq_none_iff, List.mem_cons, List.not_mem_nil, or_false, forall_eq] at hc
            exact .inl ⟨he, hc⟩
          · simp only [he, if_false, firstError_eq_none_iff, List.mem_cons, List.not_mem_nil, or_false,
              forall_eq_or_imp, forall_eq, Bool.not_eq_false', Bool.or_eq_false_iff, decide_eq_false_iff_not,
              not_not] at hc
            exact .inr ⟨he, hc.1.1, hc.1.2, hc.2⟩
        · exact .inl ⟨e, ht⟩
  · exact .inl ⟨_, rfl⟩

theorem execEnc_cases {lf bf : Bool} {s t : State} (h : execEnc lf bf s = .next t) :
    (∃ e, t = raiseError true e s) ∨
    (s.ctxv = true ∧ (bf = true ∨ (s.opact = true ∧ s.opdir = false)) ∧
      (lf = true ∨ s.operands.lenN % s.blockSize = 0) ∧
      inBuf s.operands.srcN s.operands.lenN = true ∧
      inBuf s.operands.dstN (s.operands.lenN + encPadLen lf s) = true ∧
      t = complete (s.operands.lenN + encPadLen lf s)
        (bufWrite
          (afterChunk lf bf false (runChunk s.sched (modeCtx s) false (startRegs bf s) (encInput lf s)).2
            { s with draws := s.draws + encDraws lf s })
          s.operands.dstN (runChunk s.sched (modeCtx s) false (startRegs bf s) (encInput lf s)).1)) := by
  cases h
  rcases afterChecks_cases true
    (opChecks bf false s ++
      [(!lf && decide (s.operands.lenN % s.blockSize ≠ 0), .lengthError),
       (!inBuf s.operands.srcN s.operands.lenN ||
         !inBuf s.operands.dstN (s.operands.lenN + encPadLen lf s), .addressError)]) _ s with ⟨hc, ht⟩ | ⟨e, -, ht⟩
  · simp only [firstError_eq_none_iff, opChecks, List.cons_append, List.nil_append, List.mem_cons, List.not_mem_nil,
      or_false, forall_eq_or_imp, forall_eq, Bool.not_eq_false', Bool.or_eq_false_iff, Bool.and_eq_false_iff,
      decide_eq_false_iff_not, not_not, bne_eq_false_iff_eq] at hc
    exact .inr ⟨hc.1, hc.2.1, hc.2.2.1, hc.2.2.2.1, hc.2.2.2.2, ht⟩
  · exact .inl ⟨e, ht⟩

theorem execDec_cases {lf bf : Bool} {s t : State} (h : execDec lf bf s = .next t) :
    (∃ e, t = raiseError true e s) ∨
    (s.ctxv = true ∧ (bf = true ∨ (s.opact = true ∧ s.opdir = true)) ∧
      ((s.lmode.isBlock = false ∧ lf = true) ∨ s.operands.lenN % s.blockSize = 0) ∧
      inBuf s.operands.srcN s.operands.lenN = true ∧ inBuf s.operands.dstN s.operands.lenN = true ∧
      t = complete
        (decOutput lf s
          (runChunk s.sched (modeCtx s) true (startRegs bf s) (bufRead s s.operands.srcN s.operands.lenN)).1).length
        (bufWrite
          (afterChunk lf bf true
            (runChunk s.sched (modeCtx s) true (startRegs bf s) (bufRead s s.operands.srcN s.operands.lenN)).2 s)
          s.operands.dstN
          (decOutput lf s
            (runChunk s.sched (modeCtx s) true (startRegs bf s) (bufRead s s.operands.srcN s.operands.lenN)).1))) := by
  cases h
  rcases afterChecks_cases true
    (opChecks bf true s ++
      [((s.lmode.isBlock || !lf) && decide (s.operands.lenN % s.blockSize ≠ 0), .lengthError),
       (!inBuf s.operands.srcN s.operands.lenN || !inBuf s.operands.dstN s.operands.lenN, .addressError)]) _ s
    with ⟨hc, ht⟩ | ⟨e, -, ht⟩
  · simp only [firstError_eq_none_iff, opChecks, List.cons_append, List.nil_append, List.mem_cons, List.not_mem_nil,
      or_false, forall_eq_or_imp, forall_eq, Bool.not_eq_false', Bool.or_eq_false_iff, Bool.and_eq_false_iff,
      decide_eq_false_iff_not, not_not, bne_eq_false_iff_eq] at hc
    exact .inr ⟨hc.1, hc.2.1, hc.2.2.1, hc.2.2.2.1, hc.2.2.2.2, ht⟩
  · exact .inl ⟨e, ht⟩

theorem execDhi_cases {s t : State} (h : execDhi s = .next t) :
    (∃ e, t = raiseError false e s) ∨
    (inBuf s.operands.dstN group5Len = true ∧
      t = newParticipant group5Prime group5Gen group5Len (drawExponent s.draws) (afterExponentDraw s)) := by
  cases h
  rcases afterChecks_cases false [(!inBuf s.operands.dstN group5Len, .addressError)] _ s with ⟨hc, ht⟩ | ⟨e, -, ht⟩
  · simp only [firstError_eq_none_iff, List.mem_cons, List.not_mem_nil, or_false, forall_eq, Bool.not_eq_false'] at hc
    exact .inr ⟨hc, ht⟩
  · exact .inl ⟨e, ht⟩

theorem execDhr_cases {s t : State} (h : execDhr s = .next t) :
    (∃ e, t = raiseError false e s) ∨
    (0 < s.operands.lenN ∧ s.operands.lenN ≤ Config.modexpMaxBytes ∧ s.operands.len2N ≤ Config.modexpMaxBytes ∧
      inBuf s.operands.srcN s.operands.lenN = true ∧ inBuf s.operands.src2N s.operands.len2N = true ∧
      inBuf s.operands.dstN s.operands.lenN = true ∧
      3 ≤ beNat (bufRead s s.operands.srcN s.operands.lenN) ∧
      t = newParticipant (beNat (bufRead s s.operands.srcN s.operands.lenN))
        (beNat (bufRead s s.operands.src2N s.operands.len2N)) s.operands.lenN (drawExponent s.draws)
        (afterExponentDraw s)) := by
  cases h
  rcases afterChecks_cases false
    [(decide (s.operands.lenN = 0 ∨ Config.modexpMaxBytes < s.operands.lenN ∨
        Config.modexpMaxBytes < s.operands.len2N), .lengthError),
     (!inBuf s.operands.srcN s.operands.lenN || !inBuf s.operands.src2N s.operands.len2N ||
        !inBuf s.operands.dstN s.operands.lenN, .addressError),
     (decide (beNat (bufRead s s.operands.srcN s.operands.lenN) < 3), .invalidGroup)] _ s with ⟨hc, ht⟩ | ⟨e, -, ht⟩
  · simp only [firstError_eq_none_iff, List.mem_cons, List.not_mem_nil, or_false, forall_eq_or_imp, forall_eq,
      Bool.not_eq_false', decide_eq_false_iff_not, not_or, not_lt, Bool.or_eq_false_iff] at hc
    obtain ⟨⟨h1, h2, h3⟩, ⟨⟨h4, h5⟩, h6⟩, h7⟩ := hc
    exact .inr ⟨Nat.pos_of_ne_zero h1, h2, h3, h4, h5, h6, h7, ht⟩
  · exact .inl ⟨e, ht⟩

theorem execDhs_cases {s t : State} (h : execDhs s = .next t) :
    (∃ e, t = raiseError false e s) ∨
    (s.dhv = true ∧ s.operands.lenN ≤ Config.modexpMaxBytes ∧ inBuf s.operands.srcN s.operands.lenN = true ∧
      inBuf s.operands.dstN s.plen = true ∧
      t = complete s.plen
        (bufWrite
          { s with sreg := modExp (beNat (bufRead s s.operands.srcN s.operands.lenN)) s.dhx.toNat s.dhp, secv := true }
          s.operands.dstN
          (toBE s.plen (modExp (beNat (bufRead s s.operands.srcN s.operands.lenN)) s.dhx.toNat s.dhp)))) := by
  cases h
  rcases afterChecks_cases false
    [(!s.dhv, .stateError), (decide (Config.modexpMaxBytes < s.operands.lenN), .lengthError),
     (!inBuf s.operands.srcN s.operands.lenN || !inBuf s.operands.dstN s.plen, .addressError)] _ s
    with ⟨hc, ht⟩ | ⟨e, -, ht⟩
  · simp only [firstError_eq_none_iff, List.mem_cons, List.not_mem_nil, or_false, forall_eq_or_imp, forall_eq,
      Bool.not_eq_false', decide_eq_false_iff_not, not_lt, Bool.or_eq_false_iff] at hc
    exact .inr ⟨hc.1, hc.2.1, hc.2.2.1, hc.2.2.2, ht⟩
  · exact .inl ⟨e, ht⟩

theorem execDhk_cases {s t : State} (h : execDhk s = .next t) :
    (∃ e, t = raiseError false e s) ∨
    (s.secv = true ∧ s.operands.lenN ≤ 32 ∧ inBuf s.operands.dstN s.operands.lenN = true ∧
      t = complete s.operands.lenN
        (bufWrite s s.operands.dstN (truncBytes (sha256 (kdfInput s.operands.kdfle s.sreg)) s.operands.lenN))) := by
  cases h
  rcases afterChecks_cases false
    [(!s.secv, .stateError), (decide (32 < s.operands.lenN), .keySizeTooLarge),
     (!inBuf s.operands.dstN s.operands.lenN, .addressError)] _ s with ⟨hc, ht⟩ | ⟨e, -, ht⟩
  · simp only [firstError_eq_none_iff, List.mem_cons, List.not_mem_nil, or_false, forall_eq_or_imp, forall_eq,
      Bool.not_eq_false', decide_eq_false_iff_not, not_lt] at hc
    exact .inr ⟨hc.1, hc.2.1, hc.2.2, ht⟩
  · exact .inl ⟨e, ht⟩

end Sys2Proof.Laws
end

