-- ==== Sys2Proof/Laws/PerInstr.lean ====
section
/-! SUPPORT. Statements for all commands, made per command. `Row`: the word a command encodes to matches its own row of the
opcode map, by the map's match value and mask (30_encoding.md R68). -/

namespace Sys2Proof.Laws

/-- The encoded word matches the command's row of R68. -/
def Row.Statement (i : Instr) : Prop := encode i &&& maskOf i = matchOf i

theorem Row.nop : Row.Statement .nop := by unfold Row.Statement; decide
theorem Row.key : Row.Statement .key := by unfold Row.Statement; decide
theorem Row.ctx : Row.Statement .ctx := by unfold Row.Statement; decide
theorem Row.encb : Row.Statement .encb := by unfold Row.Statement; decide
theorem Row.decb : Row.Statement .decb := by unfold Row.Statement; decide
theorem Row.enc (lf bf : Bool) : Row.Statement (.enc lf bf) := by
  unfold Row.Statement; revert lf bf; decide
theorem Row.dec (lf bf : Bool) : Row.Statement (.dec lf bf) := by
  unfold Row.Statement; revert lf bf; decide

/-- The mask of PAD and UNPAD leaves OP and drops BS, whatever the BS bits are. -/
theorem sized_masked : ∀ b : Byte,
    ((0#8 ++ b ++ 0#8 ++ 7#8 : Word) &&& 0xFF00FFFF) = 7 ∧ ((0#8 ++ b ++ 0#8 ++ 8#8 : Word) &&& 0xFF00FFFF) = 8 := by
  decide +kernel

theorem Row.pad (bs : Nat) : Row.Statement (.pad bs) := (sized_masked (BitVec.ofNat 8 bs)).1
theorem Row.unpad (bs : Nat) : Row.Statement (.unpad bs) := (sized_masked (BitVec.ofNat 8 bs)).2
theorem Row.rc4key : Row.Statement .rc4key := by unfold Row.Statement; decide
theorem Row.rc4 : Row.Statement .rc4 := by unfold Row.Statement; decide
theorem Row.dhi : Row.Statement .dhi := by unfold Row.Statement; decide
theorem Row.dhr : Row.Statement .dhr := by unfold Row.Statement; decide
theorem Row.dhs : Row.Statement .dhs := by unfold Row.Statement; decide
theorem Row.dhk : Row.Statement .dhk := by unfold Row.Statement; decide
theorem Row.srst : Row.Statement .srst := by unfold Row.Statement; decide

end Sys2Proof.Laws
end

