-- ==== Sys2Proof/Laws/Stream.lean ====
section
/-! SUPPORT. What `settle` does with the host's accesses, one at a time, and what the host's code answers: enough to run a
script symbolically without unfolding the step. -/

namespace Sys2Proof.Laws

open Machine

/-! The host's sequencing -/

@[simp] theorem andThen_next {α β : Type} (a : α) (f : α → Host.Outcome β Fault Refusal) : andThen (.next a) f = f a := rfl
@[simp] theorem andThen_fault {α β : Type} (e : Fault) (f : α → Host.Outcome β Fault Refusal) :
    andThen (.fault e) f = .fault e := rfl
@[simp] theorem andThen_refused {α β : Type} (r : Refusal) (f : α → Host.Outcome β Fault Refusal) :
    andThen (.refused r) f = .refused r := rfl

theorem andThen_eq_next {α β : Type} {o : Host.Outcome α Fault Refusal} {f : α → Host.Outcome β Fault Refusal} {b : β} :
    andThen o f = .next b ↔ ∃ a, o = .next a ∧ f a = .next b := by
  cases o <;> simp

/-! A step brings the host's accesses and the command in flight nearer to their end -/

/-- A command ends with nothing in flight and touches no access of the host. -/
theorem exec_over {i : Instr} {s t : State} (h : exec i s = .next t) : t.host = s.host ∧ t.inflight = none := by
  have raised : ∀ b e, t = raiseError b e s → t.host = s.host ∧ t.inflight = none := by
    rintro b e rfl; exact ⟨rfl, rfl⟩
  cases i with
  | nop => cases h; exact ⟨rfl, rfl⟩
  | srst => cases h; exact ⟨rfl, rfl⟩
  | key => rcases execKey_cases h with ⟨e, he⟩ | ⟨_, -, -, -, rfl⟩; exacts [raised _ e he, ⟨rfl, rfl⟩]
  | ctx => rcases execCtx_cases h with ⟨e, he⟩ | ⟨_, _, -, -, -, -, rfl⟩; exacts [raised _ e he, ⟨rfl, rfl⟩]
  | encb => rcases execEncb_cases h with ⟨e, he⟩ | ⟨-, -, -, -, rfl⟩; exacts [raised _ e he, ⟨rfl, rfl⟩]
  | decb => rcases execDecb_cases h with ⟨e, he⟩ | ⟨-, -, -, -, rfl⟩; exacts [raised _ e he, ⟨rfl, rfl⟩]
  | enc lf bf => rcases execEnc_cases h with ⟨e, he⟩ | ⟨-, -, -, -, -, rfl⟩; exacts [raised _ e he, ⟨rfl, rfl⟩]
  | dec lf bf => rcases execDec_cases h with ⟨e, he⟩ | ⟨-, -, -, -, -, rfl⟩; exacts [raised _ e he, ⟨rfl, rfl⟩]
  | pad bs => rcases execPad_cases h with ⟨e, he⟩ | ⟨_, -, -, -, -, rfl⟩; exacts [raised _ e he, ⟨rfl, rfl⟩]
  | unpad bs => rcases execUnpad_cases h with ⟨e, he⟩ | ⟨_, -, -, -, -, rfl⟩; exacts [raised _ e he, ⟨rfl, rfl⟩]
  | rc4key => rcases execRc4key_cases h with ⟨e, he⟩ | ⟨-, -, -, rfl⟩; exacts [raised _ e he, ⟨rfl, rfl⟩]
  | rc4 => rcases execRc4_cases h with ⟨e, he⟩ | ⟨-, -, -, rfl⟩; exacts [raised _ e he, ⟨rfl, rfl⟩]
  | dhi => rcases execDhi_cases h with ⟨e, he⟩ | ⟨-, rfl⟩; exacts [raised _ e he, ⟨rfl, rfl⟩]
  | dhr => rcases execDhr_cases h with ⟨e, he⟩ | ⟨-, -, -, -, -, -, -, rfl⟩; exacts [raised _ e he, ⟨rfl, rfl⟩]
  | dhs => rcases execDhs_cases h with ⟨e, he⟩ | ⟨-, -, -, -, rfl⟩; exacts [raised _ e he, ⟨rfl, rfl⟩]
  | dhk => rcases execDhk_cases h with ⟨e, he⟩ | ⟨-, -, -, rfl⟩; exacts [raised _ e he, ⟨rfl, rfl⟩]

/-- After an engine's step nothing is in flight, and the host's accesses are as they were. -/
theorem engineStep_over {s t : State} (h : engineStep s = .next t) : t.host = s.host ∧ t.inflight = none := by
  rcases engineStep_cases h with ⟨hi, rfl⟩ | ⟨_, _, -, -, hx⟩ | ⟨_, _, -, -, rfl⟩
  exacts [⟨rfl, hi⟩, exec_over hx, ⟨rfl, rfl⟩]

/-- A host step leaves the accesses still to come. -/
theorem hostStep_host {op : HostOp} {s t : State} (h : hostStep op s = .next t) : t.host = s.host := by
  rcases hostStep_cases h with ⟨w, off, -, h⟩ | ⟨w, off, v, -, h⟩ | ⟨-, rfl⟩ | ⟨-, rfl⟩
  · rcases hostRead_cases h with ⟨_, -, rfl⟩ | ⟨_, _, -, ⟨-, rfl⟩ | ⟨-, rfl⟩⟩ <;> rfl
  · rcases hostWrite_cases h with ⟨-, rfl⟩ | ⟨-, r, -, rfl⟩ | ⟨-, _, _, -, rfl⟩
    · rfl
    · rcases regWrite_cases r v s with h | h | ⟨_, h, -⟩ <;> rw [h] <;> rfl
    · rfl
  · rfl
  · rfl

/-- How many steps the host's accesses and the command in flight can still take. -/
def load (s : State) : Nat := 2 * s.host.length + if s.busy then 1 else 0

theorem load_le (s : State) : load s ≤ 2 * s.host.length + 1 := by unfold load; split <;> omega

theorem load_eq_zero {s : State} : load s = 0 ↔ s.host = [] ∧ s.inflight = none := by
  unfold load State.busy
  cases hi : s.inflight <;> simp

theorem step_load {s t : State} (h : step s = .next t) : load t < load s ∨ (load s = 0 ∧ t = s) := by
  rcases step_cases h with ⟨hh, he⟩ | ⟨op, rest, hh, hb, he⟩ | ⟨op, rest, hh, he⟩
  · by_cases hi : s.inflight = none
    · rcases engineStep_cases he with ⟨-, rfl⟩ | ⟨c, _, hc, -, -⟩ | ⟨c, _, hc, -, -⟩
      · exact .inr ⟨load_eq_zero.2 ⟨hh, hi⟩, rfl⟩
      · rw [hi] at hc; cases hc
      · rw [hi] at hc; cases hc
    · have ht : load t = 0 := load_eq_zero.2 ⟨(engineStep_over he).1.trans hh, (engineStep_over he).2⟩
      exact .inl (ht ▸ Nat.pos_of_ne_zero fun h0 => hi (load_eq_zero.1 h0).2)
  · obtain ⟨h1, h2⟩ := engineStep_over he
    have hs : (afterTurn op s).host = s.host := by rcases afterTurn_cases op s with h | h <;> rw [h]
    refine .inl ?_
    simp [load, State.busy, h2, h1, hs, show s.inflight.isSome = true from hb]
  · have h1 : t.host = rest := hostStep_host he
    have := load_le t
    refine .inl (this.trans_lt ?_)
    simp only [load, h1, hh, List.length_cons]
    omega

/-! Runs -/

theorem run_succ (k : Nat) (s : State) :
    (Sys2Proof.core.run (k + 1) s : Host.Outcome State Fault Refusal)
      = andThen (step s) fun t => Sys2Proof.core.run k t := by
  refine (Host.Core.run.eq_2 Sys2Proof.core s k).trans ?_
  unfold andThen
  have hs : Sys2Proof.core.step s = step s := rfl
  rw [hs]
  cases step s <;> rfl

/-- Once the accesses and the command are over, a longer run answers the same. -/
theorem run_of_load_le {k : Nat} {s : State} (h : load s ≤ k) :
    (Sys2Proof.core.run (k + 1) s : Host.Outcome State Fault Refusal) = Sys2Proof.core.run k s := by
  induction k generalizing s with
  | zero =>
    obtain ⟨hh, hi⟩ := load_eq_zero.1 (Nat.le_zero.1 h)
    rw [run_succ]
    simp [step, nextMove, hh, engineStep, hi]
    rfl
  | succ k ih =>
    rw [run_succ, run_succ k]
    cases hs : step s with
    | next t =>
      refine ih ?_
      rcases step_load hs with hl | ⟨h0, rfl⟩ <;> omega
    | fault e => rfl
    | refused r => rfl

/-- `settle` is a run of any length that is long enough. -/
theorem settle_eq_run {k : Nat} {s : State} (h : load s ≤ k) : settle s = Sys2Proof.core.run k s := by
  have up : ∀ n, (Sys2Proof.core.run (load s + n) s : Host.Outcome State Fault Refusal) = Sys2Proof.core.run (load s) s := by
    intro n
    induction n with
    | zero => rfl
    | succ n ih => exact (run_of_load_le (Nat.le_add_right _ _)).trans ih
  obtain ⟨m, hm⟩ := Nat.exists_eq_add_of_le (load_le s)
  obtain ⟨n, rfl⟩ := Nat.exists_eq_add_of_le h
  unfold settle
  rw [hm, up m, up n]

/-- One step of a settling core. -/
theorem settle_step (s : State) : settle s = andThen (step s) settle := by
  rw [settle_eq_run (Nat.le_succ (load s)), run_succ]
  cases hs : step s with
  | next t =>
    refine (settle_eq_run ?_).symm
    rcases step_load hs with hl | ⟨h0, rfl⟩ <;> omega
  | fault e => rfl
  | refused r => rfl

/-- With nothing to do the core stays as it is. -/
theorem settle_idle {s : State} (hh : s.host = []) (hi : s.inflight = none) : settle s = .next s := by
  rw [settle_eq_run (k := 0) (load_eq_zero.2 ⟨hh, hi⟩).le]
  rfl

/-- With nothing in flight the host's next access is made. -/
theorem settle_access {s : State} {op : HostOp} {rest : List HostOp} (hh : s.host = op :: rest) (hi : s.inflight = none) :
    settle s = andThen (hostStep op { s with host := rest }) settle := by
  rw [settle_step]
  simp [step, nextMove, hh, engineMoves, afterTurn, State.busy, hi]

/-- A `wait` lets the command in flight complete. -/
theorem settle_wait {s : State} {rest : List HostOp} (hh : s.host = .wait :: rest) (hi : s.inflight ≠ none) :
    settle s = andThen (engineStep s) settle := by
  rw [settle_step]
  obtain ⟨c, hc⟩ := Option.ne_none_iff_exists'.1 hi
  simp [step, nextMove, hh, engineMoves, afterTurn, State.busy, hc]

/-- When the core has settled, the host's accesses are over and nothing is in flight. -/
theorem settle_over {s t : State} (h : settle s = .next t) : t.host = [] ∧ t.inflight = none := by
  suffices ∀ n s, load s ≤ n → settle s = .next t → t.host = [] ∧ t.inflight = none from this _ s le_rfl h
  intro n
  induction n with
  | zero =>
    intro s hl h
    have h0 := load_eq_zero.1 (Nat.le_zero.1 hl)
    rw [settle_idle h0.1 h0.2] at h
    cases h
    exact h0
  | succ n ih =>
    intro s hl h
    by_cases h0 : load s = 0
    · exact ih s (h0 ▸ Nat.zero_le _) h
    rw [settle_step, andThen_eq_next] at h
    obtain ⟨u, hu, h⟩ := h
    rcases step_load hu with hlt | ⟨hz, -⟩
    · exact ih u (by omega) h
    · exact absurd hz h0

theorem converse_over {p : List Stmt} {s t : State} (h : converse p s = .next t) : t.host = [] ∧ t.inflight = none :=
  settle_over h

/-! The accesses of a script, run on an idle core -/

theorem accessOf_byte {a : Nat} (h : a < Config.bufSize) : accessOf .w8 (Config.bufWindow + a) = .ok (.buf a 1) := by
  have h' : a < 262144 := h
  have h1 : ¬ Config.bufWindow + a < Config.regWindow := by show ¬ 262144 + a < 256; omega
  have h2 : Config.bufWindow ≤ Config.bufWindow + a ∧ Config.bufWindow + a < Config.bufWindow + Config.bufSize ∧
      Config.bufWindow + a < Config.hostSpace := by
    show 262144 ≤ 262144 + a ∧ 262144 + a < 262144 + 262144 ∧ 262144 + a < 524288; omega
  simp only [accessOf, Width.bytes?, accessAt]
  rw [if_neg h1, if_pos h2, if_pos (Nat.mod_one _), Nat.add_sub_cancel_left]

theorem accessOf_reg (n : RegName) : accessOf .w32 n.offset = .ok (.reg n.offset) := by cases n <;> rfl

theorem hostWrite_reg {s : State} (hi : s.inflight = none) (n : RegName) (v : Word) :
    hostWrite .w32 n.offset v s = .next (regWrite n.offset v s) := by
  simp [hostWrite, accessOf_reg, State.busy, hi]

theorem hostRead_reg (s : State) (n : RegName) :
    hostRead .w32 n.offset s = .next { s with replies := .b32 (regRead s n.offset) :: s.replies } := by
  simp [hostRead, accessOf_reg, answer]

theorem hostWrite_byte {s : State} (hi : s.inflight = none) {a : Nat} (h : a < Config.bufSize) (b : Byte) :
    hostWrite .w8 (Config.bufWindow + a) (b.setWidth 32) s = .next (bufWrite s a [b]) := by
  have hb : toLE 1 (b.setWidth 32).toNat = [b] := by
    have := b.isLt
    simp only [toLE, BitVec.toNat_setWidth]
    rw [Nat.mod_eq_of_lt (by omega), BitVec.ofNat_toNat, BitVec.setWidth_eq]
  simp only [hostWrite, accessOf_byte h, State.busy, hi, hb, Option.isSome_none, Bool.false_eq_true, if_false]

theorem hostRead_byte {s : State} (hi : s.inflight = none) {a : Nat} (h : a < Config.bufSize) :
    hostRead .w8 (Config.bufWindow + a) s = .next { s with replies := .b8 (bufByte s a) :: s.replies } := by
  have hb : replyOf 1 (bufValue s a 1) = .b8 (bufByte s a) := by
    have := (bufByte s a).isLt
    simp only [replyOf, bufValue, bufRead, leNat, Nat.mul_zero, Nat.add_zero]
    congr 1
    apply BitVec.eq_of_toNat_eq
    simp only [BitVec.toNat_setWidth, BitVec.toNat_ofNat]
    omega
  simp [hostRead, accessOf_byte h, State.busy, hi, hb, answer]

/-- A 32-bit write of a register. -/
theorem settle_wrReg {s : State} {n : RegName} {v : Word} {rest : List HostOp} (hh : s.host = wrReg n v :: rest)
    (hi : s.inflight = none) : settle s = settle (regWrite n.offset v { s with host := rest }) := by
  rw [settle_access hh hi]
  exact congrArg (andThen · settle) (hostWrite_reg (s := { s with host := rest }) hi n v)

/-- A 32-bit read of a register. -/
theorem settle_rdReg {s : State} {n : RegName} {rest : List HostOp} (hh : s.host = .read .w32 n.offset :: rest)
    (hi : s.inflight = none) :
    settle s = settle { s with host := rest, replies := .b32 (regRead s n.offset) :: s.replies } := by
  have hr : regRead { s with host := rest } n.offset = regRead s n.offset := by cases n <;> rfl
  rw [settle_access hh hi, ← hr]
  exact congrArg (andThen · settle) (hostRead_reg { s with host := rest } n)

/-- A store of a string is a store of its first byte and then of the others. -/
theorem memGet?_memWrite_cons (m : Memory) (a : Nat) (b : Byte) (bs : Bytes) (x : Nat) :
    memGet? (memWrite (memWrite m a [b]) (a + 1) bs) x = memGet? (memWrite m a (b :: bs)) x := by
  simp only [memGet?_memWrite, List.length_cons, List.length_nil]
  by_cases h1 : a + 1 ≤ x ∧ x < a + 1 + bs.length
  · rw [if_pos h1, if_pos (by omega), show x - a = (x - (a + 1)) + 1 by omega, List.getElem?_cons_succ]
  · rw [if_neg h1]
    by_cases h2 : x = a
    · subst h2
      rw [if_pos (by omega), if_pos (by omega), Nat.sub_self]
      rfl
    · rw [if_neg (by omega), if_neg (by omega)]

/-- The byte writes of a string store it and change nothing else. -/
theorem settle_wrBytes (bs : Bytes) {s : State} {a : Nat} {rest : List HostOp} (hh : s.host = wrBytes a bs ++ rest)
    (hi : s.inflight = none) (hr : a + bs.length ≤ Config.bufSize) :
    ∃ m, settle s = settle { s with host := rest, mem := m } ∧ ∀ x, memGet? m x = memGet? (memWrite s.mem a bs) x := by
  induction bs generalizing s a with
  | nil =>
    have h : s.host = rest := hh
    exact ⟨s.mem, h ▸ rfl, fun x => (memWrite_nil_bytes s.mem a x).symm⟩
  | cons b bs ih =>
    simp only [List.length_cons] at hr
    obtain ⟨m, h1, h2⟩ := ih (s := { s with host := wrBytes (a + 1) bs ++ rest, mem := memWrite s.mem a [b] })
      (a := a + 1) rfl hi (by omega)
    refine ⟨m, ?_, fun x => (h2 x).trans (memGet?_memWrite_cons s.mem a b bs x)⟩
    rw [settle_access hh hi]
    exact (congrArg (andThen · settle) (hostWrite_byte (s := { s with host := wrBytes (a + 1) bs ++ rest }) hi
      (a := a) (by omega) b)).trans h1

/-- The byte reads of a range answer its bytes and change nothing else. -/
theorem settle_rdBytes (n : Nat) {s : State} {a : Nat} {rest : List HostOp} (hh : s.host = rdBytes a n ++ rest)
    (hi : s.inflight = none) (hr : a + n ≤ Config.bufSize) :
    settle s = settle { s with host := rest, replies := ((bufRead s a n).map Reply.b8).reverse ++ s.replies } := by
  induction n generalizing s a with
  | zero =>
    have h : s.host = rest := hh
    exact h ▸ rfl
  | succ n ih =>
    have h1 := ih (s := { s with host := rdBytes (a + 1) n ++ rest, replies := .b8 (bufByte s a) :: s.replies })
      (a := a + 1) rfl hi (by omega)
    rw [settle_access hh hi]
    refine (congrArg (andThen · settle) (hostRead_byte (s := { s with host := rdBytes (a + 1) n ++ rest }) hi
      (a := a) (by omega))).trans (h1.trans ?_)
    have hc : bufRead { s with host := rdBytes (a + 1) n ++ rest, replies := .b8 (bufByte s a) :: s.replies } (a + 1) n
      = bufRead s (a + 1) n :=
      bufRead_congr (s := { s with host := rdBytes (a + 1) n ++ rest, replies := .b8 (bufByte s a) :: s.replies })
        (t := s) rfl rfl _ _
    simp only [hc, bufRead, List.map_cons, List.reverse_cons, List.append_assoc, List.cons_append, List.nil_append]

/-! The host's code -/

/-- What a command as the host gives it can do: it ends with the core idle, and the host holds either the ERRCODE it read, or
the output, as many bytes as its last read of OUTLEN said. -/
theorem hostCommand_cases {p : List Stmt} {dst : Word} {s : State} {r : HostRun} (h : hostCommand p dst s = .next r) :
    r.core.host = [] ∧ r.core.inflight = none ∧
    ((∃ e, r.error = some e ∧ r.out = [] ∧ converse (p ++ [.rd .status, .rd .errcode]) s = .next r.core ∧
        reportedError r.core = some e) ∨
      ∃ t u, r.error = none ∧ converse (p ++ [.rd .status, .rd .errcode]) s = .next t ∧ reportedError t = none ∧
        converse [.rd .outlen] t = .next u ∧
        converse [.rdbuf dst.toNat ((lastReplies 1 u).headD 0).toNat] u = .next r.core ∧
        r.out = (lastReplies ((lastReplies 1 u).headD 0).toNat r.core).map fun w => w.setWidth 8) := by
  unfold hostCommand at h
  obtain ⟨t, ht, h⟩ := andThen_eq_next.1 h
  split at h
  · rename_i e he
    cases h
    exact ⟨(converse_over ht).1, (converse_over ht).2, .inl ⟨e, rfl, rfl, ht, he⟩⟩
  · rename_i hn
    obtain ⟨u, hu, h⟩ := andThen_eq_next.1 h
    obtain ⟨v, hv, h⟩ := andThen_eq_next.1 h
    cases h
    exact ⟨(converse_over hv).1, (converse_over hv).2, .inr ⟨t, u, rfl, ht, hn, hu, hv, rfl⟩⟩

@[simp] theorem streamChunks_nil (mk : Bool → Bool → Instr) (p : StreamPlace) (h : HostRun) :
    streamChunks mk p [] h = .next h := rfl

/-- A chunk that meets an error stops the host. -/
theorem streamChunks_cons_error {mk : Bool → Bool → Instr} {p : StreamPlace} {c : Chunk} {h r : HostRun} {e : Byte}
    (hr : hostCommand (chunkScript mk p c) p.dst h.core = .next r) (he : r.error = some e) (cs : List Chunk) :
    streamChunks mk p (c :: cs) h = .next ⟨r.core, h.out, some e⟩ := by
  simp [streamChunks, hr, he]

/-- A chunk without an error gives its output to the writer, and the host goes on. -/
theorem streamChunks_cons_ok {mk : Bool → Bool → Instr} {p : StreamPlace} {c : Chunk} {h r : HostRun}
    (hr : hostCommand (chunkScript mk p c) p.dst h.core = .next r) (he : r.error = none) (cs : List Chunk) :
    streamChunks mk p (c :: cs) h = streamChunks mk p cs ⟨r.core, h.out ++ r.out, none⟩ := by
  simp [streamChunks, hr, he]

end Sys2Proof.Laws
end

