-- ==== Sys2Proof/Tests/Slice0.lean ====
section
/-! SUPPORT. The model's own tests. Every expected value is taken from spec/95_test_vectors.md (the section is named) or worked
out by hand from the rule named; none is the model's own answer. The witnesses at the end show that the hypotheses of the
statements can be met. -/

namespace Sys2Proof.Tests

open Machine

/-! Helpers -/

/-- A state with the command word `w` in flight, the operands `o` and the BUF contents `m`. -/
def issued (w : Word) (o : Operands) (m : Memory) : State :=
  { State.reset with regs := o, inflight := some ⟨w, o⟩, mem := m }

/-- The step answers a next state for which the test holds. -/
def after (s : State) (f : State → Bool) : Bool :=
  match step s with
  | .next t => f t
  | .fault _ => false
  | .refused _ => false

/-- The DES key KD of 95_test_vectors.md. -/
def kd : Bytes := [0x01, 0x23, 0x45, 0x67, 0x89, 0xAB, 0xCD, 0xEF]

/-- The DES IV IVD of 95_test_vectors.md. -/
def ivd : Bytes := [0x12, 0x34, 0x56, 0x78, 0x90, 0xAB, 0xCD, 0xEF]

/-- "Now is t" (95_test_vectors.md). -/
def nowIsT : Bytes := [0x4E, 0x6F, 0x77, 0x20, 0x69, 0x73, 0x20, 0x74]

/-- A core keyed with a DES key and with a context of a mode and a scheme under IVD. -/
def withCtx (m : Mode) (p : Scheme) (s : State) : State :=
  { s with keyed := true, lalg := .des, key := kd, sched := scheduleOf .des kd
           ctxv := true, lmode := m, lpad := p, iv := if m = .ecb then none else some ivd }

/-! Well-formedness: the one check of a command's operands -/

theorem test_wellFormed_refuses_pad_256 : Instr.wellFormed (.pad 256) = false := by decide
theorem test_wellFormed_refuses_unpad_256 : Instr.wellFormed (.unpad 256) = false := by decide
theorem test_wellFormed_admits_pad_255 : Instr.wellFormed (.pad 255) = true := by decide
theorem test_wellFormed_admits_enc : Instr.wellFormed (.enc true false) = true := by decide

/-! Decoding: words written out bit by bit from 30_encoding.md R66, R68 (BS is bits 23..16, B bit 9, L bit 8, OP bits 7..0) -/

theorem test_decode_nop : decode 0b00000000000000000000000000000000 = .ok .nop := by decide
theorem test_decode_key : decode 0b00000000000000000000000000000001 = .ok .key := by decide
theorem test_decode_ctx : decode 0b00000000000000000000000000000010 = .ok .ctx := by decide
theorem test_decode_encb : decode 0b00000000000000000000000000000011 = .ok .encb := by decide
theorem test_decode_decb : decode 0b00000000000000000000000000000100 = .ok .decb := by decide
theorem test_decode_enc : decode 0b00000000000000000000001000000101 = .ok (.enc false true) := by decide
theorem test_decode_dec : decode 0b00000000000000000000000100000110 = .ok (.dec true false) := by decide
theorem test_decode_pad : decode 0b00000000000100000000000000000111 = .ok (.pad 16) := by decide
theorem test_decode_unpad : decode 0b00000000111111110000000000001000 = .ok (.unpad 255) := by decide
theorem test_decode_rc4key : decode 0b00000000000000000000000000001001 = .ok .rc4key := by decide
theorem test_decode_rc4 : decode 0b00000000000000000000000000001010 = .ok .rc4 := by decide
theorem test_decode_dhi : decode 0b00000000000000000000000000001011 = .ok .dhi := by decide
theorem test_decode_dhr : decode 0b00000000000000000000000000001100 = .ok .dhr := by decide
theorem test_decode_dhs : decode 0b00000000000000000000000000001101 = .ok .dhs := by decide
theorem test_decode_dhk : decode 0b00000000000000000000000000001110 = .ok .dhk := by decide
theorem test_decode_srst : decode 0b00000000000000000000000000001111 = .ok .srst := by decide

/-- A reserved OP, and nonzero bits outside the fields of ENC, PAD and KEY (R69). -/
theorem test_decode_rejects :
    decode 0x000000FF = .error (.unknownOpcode 0xFF) ∧ decode 0x00000405 = .error (.reservedBits 0x405) ∧
    decode 0x01080007 = .error (.reservedBits 0x01080007) ∧ decode 0x00000201 = .error (.reservedBits 0x201) := by decide

/-- The table's numbering, and a byte string that is no word (R70). -/
theorem test_decode_bytes :
    decodeTableWord 32 0x00080007 = some (.pad 8) ∧ decodeTableWord 32 0x10 = none ∧
    decodeBytes [0x05, 0x03, 0x00] = .error (.notOneWord 3) := by decide

/-! The commands, one step each -/

/-- NOP clears an earlier error and OUTLEN (45_system.md R151). -/
theorem test_nop_completes :
    after { issued 0x00 ⟨0, 0, 0, 0, 0, 0⟩ [] with errcode := 2, err := true, outlen := 9 }
      (fun t => t.errcode == 0 && t.done && !t.err && t.outlen == 0 && !t.busy) = true := by decide

/-- SRST clears HAZ and the units and keeps the operand registers and BUF (R152; 95_test_vectors.md X37). -/
theorem test_srst_clears_units :
    after { issued 0x0F ⟨0x10000, 1, 2, 3, 4, 5⟩ [(7, 0x99)] with rc4k := true, dhv := true, keyed := true, haz := true }
      (fun t => !t.rc4k && !t.dhv && !t.keyed && !t.haz && t.regs == ⟨0x10000, 1, 2, 3, 4, 5⟩ && bufByte t 7 == 0x99)
      = true := by decide

/-- KEY loads eight bytes as a DES key and drops the context (40_block_ciphers.md R100). -/
theorem test_key_loads_des :
    after { issued 0x01 ⟨0, 4, 8, 0, 0, 0⟩ (memCells 4 kd) with ctxv := true, opact := true, iv := some ivd }
      (fun t => t.keyed && t.key == kd && t.lalg == .des && !t.ctxv && !t.opact && t.iv == none && !t.err)
      = true := by decide

/-- KEY with seven bytes of DES key is InvalidKeySize, with ALG = 3 UnsupportedAlgorithm (95_test_vectors.md L2.10). -/
theorem test_key_errors :
    after (issued 0x01 ⟨0, 0, 7, 0, 0, 0⟩ []) (fun t => t.errcode == 0x02 && !t.keyed) = true ∧
    after (issued 0x01 ⟨3, 0, 8, 0, 0, 0⟩ []) (fun t => t.errcode == 0x07 && !t.keyed) = true := by decide

/-- CTX takes the IV at SRC2 and the codes of CTRL: MODE = 1, PAD = 1, IVP = 1, CTRLE = 1 (43_modes.md R121). -/
theorem test_ctx_loads_iv :
    after { issued 0x02 ⟨0x1910, 0, 0, 0, 0x20, 8⟩ (memCells 0x20 ivd) with keyed := true }
      (fun t => t.ctxv && t.iv == some ivd && t.lmode == .cbc && t.lpad == .pkcs7 && t.lctrle && !t.err)
      = true := by decide

/-- ECB with an IV is InvalidIv, MODE = 7 UnsupportedMode, no key StateError (95_test_vectors.md L2.10). -/
theorem test_ctx_errors :
    after { issued 0x02 ⟨0x800, 0, 0, 0, 0, 8⟩ [] with keyed := true } (fun t => t.errcode == 0x03) = true ∧
    after { issued 0x02 ⟨0x70, 0, 0, 0, 0, 8⟩ [] with keyed := true } (fun t => t.errcode == 0x05) = true ∧
    after (issued 0x02 ⟨0, 0, 0, 0, 0, 8⟩ []) (fun t => t.errcode == 0x0A) = true := by decide

/-- ENCB of "Now is t" under KD (95_test_vectors.md L2.1). -/
theorem test_encb_des :
    after { issued 0x03 ⟨0, 0, 8, 0x10, 0, 0⟩ (memCells 0 nowIsT) with
              keyed := true, key := kd, sched := scheduleOf .des kd }
      (fun t => bufRead t 0x10 8 == [0x3F, 0xA4, 0x0E, 0x8A, 0x98, 0x4D, 0x48, 0x15] && t.outlen == 8) = true := by
  decide +kernel

/-- DECB in place: D(133457799BBCDFF1, 85E813540F0AB405) = 0123456789ABCDEF (95_test_vectors.md L2.1). -/
theorem test_decb_des_in_place :
    after { issued 0x04 ⟨0, 0, 8, 0, 0, 0⟩ (memCells 0 [0x85, 0xE8, 0x13, 0x54, 0x0F, 0x0A, 0xB4, 0x05]) with
              keyed := true, sched := scheduleOf .des [0x13, 0x34, 0x57, 0x79, 0x9B, 0xBC, 0xDF, 0xF1] }
      (fun t => bufRead t 0 8 == kd) = true := by decide +kernel

/-- ENC.B.L in CBC with PKCS7 of empty input writes one block (95_test_vectors.md L2.7). -/
theorem test_enc_cbc_pkcs7_empty :
    after (withCtx .cbc .pkcs7 (issued 0x305 ⟨0x910, 0, 0, 0x10, 0, 0⟩ []))
      (fun t => bufRead t 0x10 8 == [0xC2, 0x11, 0x06, 0x44, 0x8C, 0x1E, 0x13, 0xC5] && t.outlen == 8 && t.blkidx == 1 &&
        !t.opact && !t.err) = true := by decide +kernel

/-- ENC.B.L in CFB of eleven bytes: the FIPS 81 result truncated, no padding (95_test_vectors.md L2.7, 43_modes.md R125). -/
theorem test_enc_cfb_short_last :
    after (withCtx .cfb .pkcs7 (issued 0x305 ⟨0x930, 0, 11, 0x10, 0, 0⟩ (memCells 0 (nowIsT ++ [0x68, 0x65, 0x20]))))
      (fun t => bufRead t 0x10 11 ==
          [0xF3, 0x09, 0x62, 0x49, 0xC7, 0xF4, 0x6E, 0x51, 0xA6, 0x9E, 0x83] && t.outlen == 11 && t.blkidx == 2)
      = true := by decide +kernel

/-- DEC.B.L in CBC with PKCS7 of that block leaves nothing: the whole block was padding (95_test_vectors.md L2.7). -/
theorem test_dec_cbc_pkcs7_empty :
    after (withCtx .cbc .pkcs7
        (issued 0x306 ⟨0x910, 0, 8, 0x10, 0, 0⟩ (memCells 0 [0xC2, 0x11, 0x06, 0x44, 0x8C, 0x1E, 0x13, 0xC5])))
      (fun t => t.outlen == 0 && t.opdir && !t.opact && !t.err) = true := by decide +kernel

/-- DEC.B.L in RandomDelta of "Now is t": the mode is not symmetric (95_test_vectors.md L2.7). -/
theorem test_dec_random_delta :
    after (withCtx .randomDelta .zeros (issued 0x306 ⟨0x860, 0, 8, 0x10, 0, 0⟩ (memCells 0 nowIsT)))
      (fun t => bufRead t 0x10 8 == [0xE7, 0x1A, 0xF1, 0x69, 0xF8, 0x4E, 0x25, 0x37]) = true := by decide +kernel

/-- PAD of five bytes with PKCS7 and ANSIX923 to blocks of eight (95_test_vectors.md L2.5). -/
theorem test_pad :
    after (issued 0x00080007 ⟨0x100, 0, 5, 0x10, 0, 0⟩ (memCells 0 [1, 2, 3, 4, 5]))
      (fun t => bufRead t 0x10 8 == [1, 2, 3, 4, 5, 3, 3, 3] && t.outlen == 8) = true ∧
    after (issued 0x00080007 ⟨0x200, 0, 5, 0x10, 0, 0⟩ (memCells 0 [1, 2, 3, 4, 5]))
      (fun t => bufRead t 0x10 8 == [1, 2, 3, 4, 5, 0, 0, 3] && t.outlen == 8) = true := by decide +kernel

/-- PAD with ISO10126 draws pad_len − 1 bytes and ends in pad_len (42_padding.md R111). -/
theorem test_pad_iso_draws :
    after (issued 0x00080007 ⟨0x300, 0, 5, 0x10, 0, 0⟩ (memCells 0 [1, 2, 3, 4, 5]))
      (fun t => t.draws == 2 && bufByte t 0x17 == 3 && bufByte t 0x14 == 5) = true := by decide +kernel

/-- UNPAD of 0102030405000003: ANSIX923 strips three, PKCS7 nothing (95_test_vectors.md L2.6). -/
theorem test_unpad :
    after (issued 0x00080008 ⟨0x200, 0, 8, 0x10, 0, 0⟩ (memCells 0 [1, 2, 3, 4, 5, 0, 0, 3]))
      (fun t => t.outlen == 5 && bufRead t 0x10 5 == [1, 2, 3, 4, 5]) = true ∧
    after (issued 0x00080008 ⟨0x100, 0, 8, 0x10, 0, 0⟩ (memCells 0 [1, 2, 3, 4, 5, 0, 0, 3]))
      (fun t => t.outlen == 8) = true := by decide +kernel

/-- RC4KEY with 0 or 257 key bytes is InvalidKeySize (95_test_vectors.md L2.4). -/
theorem test_rc4key_errors :
    after (issued 0x09 ⟨0, 0, 0, 0, 0, 0⟩ []) (fun t => t.errcode == 0x02 && !t.rc4k) = true ∧
    after (issued 0x09 ⟨0, 0, 257, 0, 0, 0⟩ []) (fun t => t.errcode == 0x02 && !t.rc4k) = true := by decide

/-- Two keystream bytes from the identity permutation, by hand from 41_rc4.md R104: I = 1, J = 1, k = S[2] = 2; then I = 2,
J = 3, the swap, k = S[5] = 5. -/
theorem test_rc4_two_bytes :
    after { issued 0x0A ⟨0, 0, 2, 4, 0, 0⟩ [(0, 0), (1, 0xF0)] with rc4k := true, rcS := rc4Identity }
      (fun t => bufRead t 4 2 == [2, 0xF5] && t.rcI == 2 && t.rcJ == 3 && rc4At t.rcS 2 == 3 && t.outlen == 2)
      = true := by decide +kernel

/-- DHI: 192 bytes do not fit from 0x3FF41 on, and fit from 0x3FF40 on (44_dh_modexp.md R142). -/
theorem test_dhi_range :
    after (issued 0x0B ⟨0, 0, 0, 0x3FF41, 0, 0⟩ []) (fun t => t.errcode == 0x0B && !t.dhv && t.draws == 0) = true ∧
    after (issued 0x0B ⟨0, 0, 0, 0x3FF40, 0, 0⟩ []) (fun t => t.dhv && t.plen == 192 && t.dhg == 2 && t.draws == 1)
      = true := by decide +kernel

/-- DHR takes p = 23 and g = 5, and refuses p = 2 (95_test_vectors.md L2.9, L2.10). -/
theorem test_dhr_group :
    after (issued 0x0C ⟨0, 0, 1, 0x10, 1, 1⟩ [(0, 23), (1, 5)]) (fun t => t.dhv && t.dhp == 23 && t.dhg == 5 && t.plen == 1)
      = true ∧
    after (issued 0x0C ⟨0, 0, 1, 0x10, 1, 1⟩ [(0, 2), (1, 5)]) (fun t => t.errcode == 0x0C && !t.dhv) = true := by
  decide +kernel

/-- DHS with x = 6 modulo 23 and peer 19 gives 2 (95_test_vectors.md L2.9). -/
theorem test_dhs_toy :
    after { issued 0x0D ⟨0, 0, 1, 0x10, 0, 0⟩ [(0, 19)] with dhv := true, dhp := 23, dhg := 5, plen := 1, dhx := 6 }
      (fun t => t.secv && t.sreg == 2 && bufByte t 0x10 == 2 && t.outlen == 1) = true := by decide +kernel

/-- DHK of the secret 2: the first four bytes of SHA256(02) (95_test_vectors.md L2.9). -/
theorem test_dhk_toy :
    after { issued 0x0E ⟨0, 0, 4, 0x10, 0, 0⟩ [] with secv := true, sreg := 2 }
      (fun t => bufRead t 0x10 4 == [0xDB, 0xC1, 0xB4, 0xC9] && t.outlen == 4) = true := by decide +kernel

/-- DHK of 33 bytes is KeySizeTooLarge, without a secret StateError (95_test_vectors.md L2.10). -/
theorem test_dhk_errors :
    after { issued 0x0E ⟨0, 0, 33, 0, 0, 0⟩ [] with secv := true } (fun t => t.errcode == 0x09) = true ∧
    after (issued 0x0E ⟨0, 0, 33, 0, 0, 0⟩ []) (fun t => t.errcode == 0x0A) = true := by decide

/-! The algorithms -/

/-- K1 and K16 of the key 133457799BBCDFF1 (95_test_vectors.md L2.1). -/
theorem test_des_schedule :
    (desSubkeys [0x13, 0x34, 0x57, 0x79, 0x9B, 0xBC, 0xDF, 0xF1]).head? = some 0x1B02EFFC7072#48 ∧
    (desSubkeys [0x13, 0x34, 0x57, 0x79, 0x9B, 0xBC, 0xDF, 0xF1]).getLast? = some 0xCB3D8B0E17F5#48 := by decide +kernel

/-- TripleDES of "Now is t" under KT (95_test_vectors.md L1.2). -/
theorem test_tdes_scenario2 :
    encryptBlock (scheduleOf .tdes (kd ++ [0x23, 0x45, 0x67, 0x89, 0xAB, 0xCD, 0xEF, 0x01] ++
      [0x45, 0x67, 0x89, 0xAB, 0xCD, 0xEF, 0x01, 0x23])) nowIsT =
      [0x31, 0x4F, 0x83, 0x27, 0xFA, 0x7A, 0x09, 0xA8] := by decide +kernel

/-- The field, the S-boxes and the round function of LOKI97 (95_test_vectors.md L2.3). -/
theorem test_loki_parts :
    gmul 0x57 0x83 = 0xC1 ∧ lokiS1 0x53 = 0xC3 ∧ lokiS2 0x53 = 0xCA ∧ lokiS2 0 = 0 ∧ lokiS1 0xFF = 0x73 ∧
    lokiF 0x0123456789ABCDEF 0 = 0xF13C0A2B4B63564E ∧
    lokiSubkey ((List.range 16).map (BitVec.ofNat 8)) 47 = 0xB2D67398E84E8F88 := by decide +kernel

/-- LOKI97 scenario 3: AA repeated, key 00..0F (95_test_vectors.md L1.3). -/
theorem test_loki_scenario3 :
    encryptBlock (scheduleOf .loki ((List.range 16).map (BitVec.ofNat 8))) (List.replicate 16 0xAA) =
      [0x7B, 0xB7, 0x61, 0x87, 0x66, 0xD6, 0x34, 0x20, 0x25, 0x66, 0xD1, 0xF2, 0xE2, 0xCD, 0x12, 0x2F] := by
  decide +kernel

/-- RC4 of "Plaintext" under "Key", with the indices it leaves (95_test_vectors.md L1.1). -/
theorem test_rc4_wikipedia :
    (rc4Process ⟨ksa [0x4B, 0x65, 0x79], 0, 0⟩ [0x50, 0x6C, 0x61, 0x69, 0x6E, 0x74, 0x65, 0x78, 0x74]).1 =
      [0xBB, 0xF3, 0x16, 0xE8, 0xD9, 0x40, 0xAF, 0x0A, 0xD3] := by decide +kernel

/-- SHA-256 of "abc" (95_test_vectors.md L2.8). -/
theorem test_sha256_abc :
    sha256 [0x61, 0x62, 0x63] =
      [0xBA, 0x78, 0x16, 0xBF, 0x8F, 0x01, 0xCF, 0xEA, 0x41, 0x41, 0x40, 0xDE, 0x5D, 0xAE, 0x22, 0x23,
       0xB0, 0x03, 0x61, 0xA3, 0x96, 0x17, 0x7A, 0x9C, 0xB4, 0x10, 0xFF, 0x61, 0xF2, 0x00, 0x15, 0xAD] := by
  decide +kernel

/-- "K[t] is the same for the cube root of the t-th prime" (44_dh_modexp.md R147): with an integer part below 7, n = K[t] + 2^32
times it is the cube root of p in units of 2^−32, rounded down. -/
theorem test_shaK_are_cube_roots :
    shaK.length = 64 ∧
    ((((List.range 312).filter fun n => 2 ≤ n && (List.range n).all fun d => d < 2 || n % d != 0).zip shaK).all fun pk =>
      (List.range 7).any fun i =>
        (pk.2.toNat + 2 ^ 32 * i) ^ 3 ≤ pk.1 * 2 ^ 96 && pk.1 * 2 ^ 96 < (pk.2.toNat + 2 ^ 32 * i + 1) ^ 3) = true := by
  decide +kernel

/-- TC and its reversal for the little-endian key derivation (95_test_vectors.md L2.8, 44_dh_modexp.md R145). -/
theorem test_tc :
    tcBytes 0 = [0] ∧ tcBytes 0x7F = [0x7F] ∧ tcBytes 0x80 = [0, 0x80] ∧ tcBytes 0x1234 = [0x12, 0x34] ∧
    tcBytes 0x8000 = [0, 0x80, 0] ∧ kdfInput true 0x80 = [0x80, 0] := by decide +kernel

/-- The mask generator, and the masks under IVD (95_test_vectors.md L2.7). -/
theorem test_rdPrng :
    rdPrng 0 16 = [0xAF, 0xCD, 0x1D, 0x7B, 0x39, 0xA8, 0x20, 0xE2, 0xF4, 0x65, 0xB9, 0xA1, 0x6A, 0x9E, 0x78, 0x6E] ∧
    rdMask ivd 8 1 = [0xC6, 0xCC, 0xEB, 0xF5, 0xC1, 0xD7, 0x44, 0x0E] := by decide +kernel

/-- The counter block wraps in its low eight bytes only (95_test_vectors.md L2.7). -/
theorem test_ctr_wrap :
    ctrBlock [0xF0, 0xF1, 0xF2, 0xF3, 0xF4, 0xF5, 0xF6, 0xF7, 0xFF, 0xFF, 0xFF, 0xFF, 0xFF, 0xFF, 0xFF, 0xFE]
      false 16 2 = [0xF0, 0xF1, 0xF2, 0xF3, 0xF4, 0xF5, 0xF6, 0xF7, 0, 0, 0, 0, 0, 0, 0, 0] := by decide +kernel

/-! The host port -/

/-- A 16-bit write stores its low byte first, and a 32-bit read puts the lowest byte in bits 7..0 (20_memory.md R45). -/
theorem test_host_lanes :
    after { State.reset with host := [.write .w16 0x40002 0xAABBCCDD] } (fun t => t.mem == [(2, 0xDD), (3, 0xCC)]) = true ∧
    after { State.reset with mem := memCells 4 [1, 2, 3, 4], host := [.read .w32 0x40004] }
      (fun t => t.replies == [.b32 0x04030201]) = true := by decide +kernel

/-- CTRL's reserved bits read back as 0 (10_state.md R19), and STATUS clears by writing 1 (R24). -/
theorem test_host_registers :
    after { State.reset with host := [.write .w32 0x004 0xFFFFFFFF] } (fun t => t.regs.ctrl == 0x00013F77) = true ∧
    after { State.reset with done := true, err := true, haz := true, host := [.write .w32 0x00C 0x0000000A] }
      (fun t => !t.done && t.err && !t.haz) = true := by decide

/-- A byte access to the register window, an offset in the hole and an odd halfword are bus errors (20_memory.md R47, R48). -/
theorem test_host_bus_errors :
    hostRead .w8 0x004 State.reset = .fault (.busMisaligned 0x004) ∧
    hostRead .w32 0x100 State.reset = .fault (.busUnmapped 0x100) ∧
    hostWrite .w16 0x40001 5 State.reset = .fault (.busMisaligned 0x40001) := ⟨rfl, rfl, rfl⟩

/-- The word placed by withFetchWord is the one the next step runs (log 2): PAD with BS = 0 is InvalidBlockSize, and the
reserved OP 0x10 IllegalCommand (95_test_vectors.md L2.10). -/
theorem test_withFetchWord :
    after (State.reset.withFetchWord 32 0x00000007) (fun t => t.errcode == 0x04 && !t.busy) = true ∧
    after (State.reset.withFetchWord 32 0x00000010) (fun t => t.errcode == 0x01 && !t.busy) = true := by decide

/-! Witnesses: for every statement with hypotheses, a concrete state and operands that meet all of them together, for each
clause, at a boundary of its range where it has one. -/

theorem witness_DecodeOfEncodeIsTheCommand :
    Instr.wellFormed (.pad 0) = true ∧ Instr.wellFormed (.unpad 255) = true ∧ Instr.wellFormed .srst = true := by decide

theorem witness_LegalWordsAreTheOpcodeMap :
    (0x00000305 : Word) &&& 0xFFFFFCFF = 0x00000005 ∧ (0x00000006 : Word) &&& 0xFFFFFCFF = 0x00000006 ∧
    (0x00FF0007 : Word) &&& 0xFF00FFFF = 0x00000007 ∧ (0x00000008 : Word) &&& 0xFF00FFFF = 0x00000008 ∧
    legalWord 0x00000010 = false ∧ legalWord 0x00000105 = true ∧ legalWord 0x80000000 = false := by decide

theorem witness_StepRunsTheCommandInFlight :
    (issued 0x00 ⟨0, 0, 0, 0, 0, 0⟩ []).inflight = some ⟨0x00, ⟨0, 0, 0, 0, 0, 0⟩⟩ ∧ decode 0x00 = .ok .nop ∧
    (issued 0x00 ⟨0, 0, 0, 0, 0, 0⟩ []).host = [] ∧
    { issued 0x00 ⟨0, 0, 0, 0, 0, 0⟩ [] with host := [.wait] }.host = .wait :: [] ∧
    { issued 0x00 ⟨0, 0, 0, 0, 0, 0⟩ [] with host := [.reset] }.host = .reset :: [] ∧ HostOp.reset ≠ .wait := by
  exact ⟨rfl, rfl, rfl, rfl, rfl, by decide⟩

theorem witness_IllegalWordCompletesWithIllegalCommand :
    (legalWord 0x101 = false ∧ { State.reset with host := [.write .w32 0x008 0x101] }.inflight = none ∧
      { State.reset with host := [.write .w32 0x008 0x101] }.host = [.write .w32 0x008 0x101]) ∧
    (legalWord 0x10 = false ∧ (issued 0x10 ⟨0, 0, 0, 0, 0, 0⟩ []).host = [] ∧
      (issued 0x10 ⟨0, 0, 0, 0, 0, 0⟩ []).inflight = some ⟨0x10, ⟨0, 0, 0, 0, 0, 0⟩⟩) ∧
    0x10 ≤ (0x10 : Word).toNat % 256 ∧ 0x10 ≤ (0xFF : Word).toNat % 256 :=
  ⟨⟨by decide, rfl, rfl⟩, ⟨by decide, rfl, rfl⟩, by decide⟩

theorem witness_IdleCoreKeepsEveryState : State.reset.host = [] ∧ State.reset.inflight = none := ⟨rfl, rfl⟩

theorem witness_CmdWriteIssuesWithSnapshot :
    { State.reset with host := [.write .w32 0x008 0x0F] }.inflight = none ∧
    { State.reset with host := [.write .w32 0x008 0x0F] }.host = .write .w32 0x008 0x0F :: [] := ⟨rfl, rfl⟩

/-- The last offset of the register window and the last byte of BUF. -/
theorem witness_BusyWindowDropsWritesAndSetsHaz :
    (issued 0x00 ⟨0, 0, 0, 0, 0, 0⟩ []).busy = true ∧
    (definedAccess .w32 0xFC ∧ 0xFC < 0x100) ∧ (definedAccess .w8 0x7FFFF ∧ 0x40000 ≤ 0x7FFFF) := by
  unfold definedAccess; decide

/-- Defined: the ends of the two windows. Undefined: a narrow register access, the hole, an odd halfword, past the end, and a
width of 64 bits. -/
theorem witness_BusErrorsAreExactlyTheUndefinedAccesses :
    definedAccess .w32 0 ∧ definedAccess .w16 0x7FFFE ∧
    ¬ definedAccess .w16 0 ∧ ¬ definedAccess .w32 0x100 ∧ ¬ definedAccess .w16 0x40001 ∧ ¬ definedAccess .w8 0x80000 ∧
    ¬ definedAccess (.other 64) 0x40000 := by
  unfold definedAccess
  refine ⟨?_, ?_, ?_, ?_, ?_, ?_, ?_⟩ <;> decide

theorem witness_ReservedAndReadOnlyOffsets : 0x034 ≤ 0x034 ∧ 0x034 ≤ 0xFC := by decide

/-- An operand register, and the last offset of the window. -/
theorem witness_RegisterWritesReadBack :
    State.reset.busy = false ∧ (0x014 < 0x100 ∧ 0x014 % 4 = 0) ∧ (0x0FC < 0x100 ∧ 0x0FC % 4 = 0) := by decide

/-- The last byte, halfword and word of BUF. -/
theorem witness_BufHostAccessesAreLittleEndian :
    State.reset.inflight = none ∧ 262143 < Config.bufSize ∧ (262142 < Config.bufSize ∧ 262142 % 2 = 0) ∧
    (262140 < Config.bufSize ∧ 262140 % 4 = 0) := by decide

theorem witness_InFlightCommandIsOverInBoundedSteps :
    { issued 0x00 ⟨0, 0, 0, 0, 0, 0⟩ [] with host := [.write .w32 0x004 1, .wait] }.busy = true := rfl

/-- RC4 without a key fails; so does the reserved word 0x10. -/
theorem witness_FailedCommandWritesNothingElse :
    (∃ t, exec .rc4 (issued 0x0A ⟨0, 0, 0, 0, 0, 0⟩ []) = .next t ∧ t.err = true) ∧
    ∃ e, (issued 0x10 ⟨0, 0, 0, 0, 0, 0⟩ []).inflight = some ⟨0x10, ⟨0, 0, 0, 0, 0, 0⟩⟩ ∧ decode 0x10 = .error e :=
  ⟨⟨_, rfl, rfl⟩, _, rfl, rfl⟩

theorem witness_CompletionRaisesIrqWhenEnabled :
    (∃ t, exec .nop (issued 0x00 ⟨0x10000, 0, 0, 0, 0, 0⟩ []) = .next t) ∧
    (∃ e, (issued 0x10 ⟨0x10000, 0, 0, 0, 0, 0⟩ []).inflight = some ⟨0x10, ⟨0x10000, 0, 0, 0, 0, 0⟩⟩ ∧
      decode 0x10 = .error e) ∧
    (0x00000002 : Word).getLsbD 1 = true ∧ (0x00000000 : Word).getLsbD 16 = false :=
  ⟨⟨_, rfl⟩, ⟨_, rfl, rfl⟩, by decide, by decide⟩

theorem witness_NoCommandWritesTheHostsRegisters :
    ∃ t, exec .srst (issued 0x0F ⟨0, 0, 0, 0, 0, 0⟩ []) = .next t := ⟨_, rfl⟩

theorem witness_UnitsAreSeparate :
    (∃ t, exec .nop (issued 0x00 ⟨0, 0, 0, 0, 0, 0⟩ []) = .next t) ∧ isChunk .nop = false ∧ Instr.nop ≠ .srst ∧
    Instr.nop ≠ .rc4key ∧ Instr.nop ≠ .rc4 ∧ Instr.nop ≠ .dhi ∧ Instr.nop ≠ .dhr ∧ Instr.nop ≠ .dhs ∧
    Instr.nop ≠ .key ∧ Instr.nop ≠ .ctx := by
  exact ⟨⟨_, rfl⟩, by decide⟩

theorem witness_HiddenStateHasNoReadPath :
    (∃ t, hostStep (.read .w32 0x00C) State.reset = .next t) ∧
    ∃ f, hostStep (.read .w32 0x100) State.reset = .fault f := ⟨⟨_, rfl⟩, _, rfl⟩

/-- A command that keeps DHX, one that always replaces it, and one that replaces it and one that does not by its success. -/
theorem witness_PrivateExponentActsOnlyThroughDhs :
    Instr.dhk ≠ .dhs ∧ Instr.srst ≠ .dhs ∧ Instr.dhi ≠ .dhs ∧
    after (issued 0x0B ⟨0, 0, 0, 0, 0, 0⟩ []) (fun t => !t.err) = true ∧
    after (issued 0x0B ⟨0, 0, 0, 0x40000, 0, 0⟩ []) (fun t => t.err) = true := by decide +kernel

/-- DES with 8 bytes, TripleDES with 24 and LOKI97 with 32, each at the end of BUF. -/
theorem witness_KeyCommand :
    ((issued 0x01 ⟨0, 0x3FFF8, 8, 0, 0, 0⟩ []).operands.algCode = 0 ∧
      (issued 0x01 ⟨0, 0x3FFF8, 8, 0, 0, 0⟩ []).operands.lenN = 8 ∧
      (issued 0x01 ⟨0, 0x3FFF8, 8, 0, 0, 0⟩ []).operands.srcN +
        (issued 0x01 ⟨0, 0x3FFF8, 8, 0, 0, 0⟩ []).operands.lenN ≤ Config.bufSize) ∧
    ((issued 0x01 ⟨1, 0x3FFE8, 24, 0, 0, 0⟩ []).operands.algCode = 1 ∧
      (issued 0x01 ⟨1, 0x3FFE8, 24, 0, 0, 0⟩ []).operands.lenN = 24 ∧
      (issued 0x01 ⟨1, 0x3FFE8, 24, 0, 0, 0⟩ []).operands.srcN +
        (issued 0x01 ⟨1, 0x3FFE8, 24, 0, 0, 0⟩ []).operands.lenN ≤ Config.bufSize) ∧
    ((issued 0x01 ⟨2, 0x3FFE0, 32, 0, 0, 0⟩ []).operands.algCode = 2 ∧
      (issued 0x01 ⟨2, 0x3FFE0, 32, 0, 0, 0⟩ []).operands.lenN = 32 ∧
      (issued 0x01 ⟨2, 0x3FFE0, 32, 0, 0, 0⟩ []).operands.srcN +
        (issued 0x01 ⟨2, 0x3FFE0, 32, 0, 0, 0⟩ []).operands.lenN ≤ Config.bufSize) := by decide

/-- A keyed core; ECB with Zeros, and RandomDelta with ISO10126 and an IV in the last eight bytes of BUF. -/
theorem witness_CtxCommand :
    (∃ s : State, s.keyed = true ∧ schemeOf s.operands.padCode = some .zeros ∧ s.operands.modeCode = 0 ∧
      s.operands.ivp = false) ∧
    ∃ s : State, s.keyed = true ∧ schemeOf s.operands.padCode = some .iso10126 ∧
      modeOf s.operands.modeCode = some .randomDelta ∧ Mode.randomDelta ≠ .ecb ∧ s.operands.ivp = true ∧
      s.operands.len2N = s.blockSize ∧ s.operands.src2N + s.blockSize ≤ Config.bufSize :=
  ⟨⟨{ issued 0x02 ⟨0, 0, 0, 0, 0, 0⟩ [] with keyed := true }, by decide⟩,
    { issued 0x02 ⟨0xB60, 0, 0, 0, 0x3FFF8, 8⟩ [] with keyed := true }, by decide⟩

/-- A core keyed with KD, with a context, meets the cipher invariant. -/
theorem cipherInv_withCtx (p : Scheme) (w : Word) (o : Operands) (m : Memory) :
    cipherInv (withCtx .cbc p (issued w o m)) :=
  ⟨fun _ => ⟨rfl, rfl⟩, fun _ => ⟨rfl, by simp [withCtx]⟩,
    fun v hv => by cases hv; rfl, fun h => Bool.noConfusion h⟩

theorem witness_EncbAndDecbCommands :
    ∃ s : State, cipherInv s ∧ s.keyed = true ∧ s.operands.lenN = s.blockSize ∧
      s.operands.srcN + s.blockSize ≤ Config.bufSize ∧ s.operands.dstN + s.blockSize ≤ Config.bufSize :=
  ⟨withCtx .cbc .pkcs7 (issued 0x03 ⟨0, 0, 8, 0x3FFF8, 0, 0⟩ []), cipherInv_withCtx _ _ _ _, rfl, rfl,
    by decide, by decide⟩

/-- ENC.B.L of 3 bytes in CBC with PKCS7: 5 bytes of padding, output in the last 8 bytes of BUF. -/
theorem witness_EncCommand :
    ∃ s : State, cipherInv s ∧ s.ctxv = true ∧ s.lmode.isBlock = true ∧ s.operands.lenN = 3 ∧
      padLen s.lpad s.operands.lenN s.blockSize = 5 ∧
      s.operands.srcN + s.operands.lenN ≤ Config.bufSize ∧ s.operands.dstN + (s.operands.lenN + 5) ≤ Config.bufSize :=
  ⟨withCtx .cbc .pkcs7 (issued 0x305 ⟨0, 0, 3, 0x3FFF8, 0, 0⟩ []), cipherInv_withCtx _ _ _ _, rfl, rfl, rfl, rfl,
    by decide, by decide⟩

/-- A continuing chunk of whole blocks that is not the LAST, and a LAST chunk of three bytes in a stream mode. -/
theorem witness_EncCommand_continuing_and_stream :
    (∃ s : State, cipherInv s ∧ s.ctxv = true ∧ (s.opact = true ∧ s.opdir = false) ∧ s.lmode.isBlock = true ∧
      s.operands.lenN % s.blockSize = 0 ∧ s.operands.srcN + s.operands.lenN ≤ Config.bufSize ∧
      s.operands.dstN + (s.operands.lenN + 0) ≤ Config.bufSize) ∧
    ∃ s : State, cipherInv s ∧ s.ctxv = true ∧ s.lmode.isBlock = false ∧ s.operands.lenN = 3 ∧
      s.operands.srcN + s.operands.lenN ≤ Config.bufSize ∧ s.operands.dstN + (s.operands.lenN + 0) ≤ Config.bufSize :=
  ⟨⟨{ withCtx .cbc .pkcs7 (issued 0x005 ⟨0, 0, 8, 0x3FFF8, 0, 0⟩ []) with opact := true, fb := ivd, pp := ivd, pcr := ivd },
      ⟨fun _ => ⟨rfl, rfl⟩, fun _ => ⟨rfl, by simp [withCtx]⟩, fun v hv => by cases hv; rfl, fun _ => ⟨rfl, rfl, rfl, rfl⟩⟩,
      rfl, ⟨rfl, rfl⟩, rfl, rfl, by decide, by decide⟩,
    ⟨withCtx .cfb .pkcs7 (issued 0x305 ⟨0, 0, 3, 0x3FFFD, 0, 0⟩ []),
      ⟨fun _ => ⟨rfl, rfl⟩, fun _ => ⟨rfl, by simp [withCtx]⟩, fun v hv => by cases hv; rfl, fun h => Bool.noConfusion h⟩,
      rfl, rfl, rfl, by decide, by decide⟩⟩

theorem witness_DecCommand :
    ∃ s : State, cipherInv s ∧ s.ctxv = true ∧ s.operands.lenN % s.blockSize = 0 ∧
      s.operands.srcN + s.operands.lenN ≤ Config.bufSize ∧ s.operands.dstN + s.operands.lenN ≤ Config.bufSize :=
  ⟨withCtx .cbc .pkcs7 (issued 0x306 ⟨0, 0, 8, 0x3FFF8, 0, 0⟩ []), cipherInv_withCtx _ _ _ _, rfl, rfl,
    by decide, by decide⟩

/-- Eight bytes and a block size of eight: PKCS7 adds a whole block, up to the end of BUF. -/
theorem witness_PadCommand :
    ∃ s : State, schemeOf s.operands.padCode = some .pkcs7 ∧ 8 ≠ 0 ∧ s.operands.lenN + padLen .pkcs7 s.operands.lenN 8 = 16 ∧
      s.operands.srcN + s.operands.lenN ≤ Config.bufSize ∧ s.operands.dstN + 16 ≤ Config.bufSize :=
  ⟨issued 0x00080007 ⟨0x100, 0, 8, 0x3FFF0, 0, 0⟩ [], by decide⟩

theorem witness_UnpadCommand :
    ∃ s : State, schemeOf s.operands.padCode = some .zeros ∧ 255 ≠ 0 ∧
      s.operands.srcN + s.operands.lenN ≤ Config.bufSize ∧ s.operands.dstN + s.operands.lenN ≤ Config.bufSize :=
  ⟨issued 0x00FF0008 ⟨0, 0, 8, 0x3FFF8, 0, 0⟩ [], by decide⟩

theorem witness_Rc4keyCommand :
    ∃ s : State, 1 ≤ s.operands.lenN ∧ s.operands.lenN ≤ 256 ∧ s.operands.srcN + s.operands.lenN ≤ Config.bufSize :=
  ⟨issued 0x09 ⟨0, 0x3FF00, 256, 0, 0, 0⟩ [], by decide⟩

theorem witness_Rc4Command :
    ∃ s : State, s.rc4k = true ∧ s.operands.srcN + s.operands.lenN ≤ Config.bufSize ∧
      s.operands.dstN + s.operands.lenN ≤ Config.bufSize :=
  ⟨{ issued 0x0A ⟨0, 0, 9, 0x3FFF7, 0, 0⟩ [] with rc4k := true }, by decide⟩

theorem witness_DhiCommand : ∃ s : State, s.operands.dstN + 192 ≤ Config.bufSize :=
  ⟨issued 0x0B ⟨0, 0, 0, 0x3FF40, 0, 0⟩ [], by decide⟩

/-- The least group, p = 3, with g = 2. -/
theorem witness_DhrCommand :
    ∃ s : State, 1 ≤ s.operands.lenN ∧ s.operands.lenN ≤ 256 ∧ s.operands.len2N ≤ 256 ∧
      s.operands.srcN + s.operands.lenN ≤ Config.bufSize ∧ s.operands.src2N + s.operands.len2N ≤ Config.bufSize ∧
      s.operands.dstN + s.operands.lenN ≤ Config.bufSize ∧
      beNat (bufRead s s.operands.srcN s.operands.lenN) = 3 ∧ beNat (bufRead s s.operands.src2N s.operands.len2N) = 2 ∧
      3 ≤ 3 :=
  ⟨issued 0x0C ⟨0, 0, 1, 0x3FFFF, 1, 1⟩ [(0, 3), (1, 2)], by decide⟩

theorem witness_DhsCommand :
    ∃ s : State, s.dhv = true ∧ s.operands.lenN ≤ 256 ∧ s.operands.srcN + s.operands.lenN ≤ Config.bufSize ∧
      s.operands.dstN + s.plen ≤ Config.bufSize :=
  ⟨{ issued 0x0D ⟨0, 0, 256, 0x3FF00, 0, 0⟩ [] with dhv := true, plen := 256 }, by decide⟩

theorem witness_DhkCommand :
    ∃ s : State, s.secv = true ∧ s.operands.lenN ≤ 32 ∧ s.operands.dstN + s.operands.lenN ≤ Config.bufSize :=
  ⟨{ issued 0x0E ⟨0, 0, 32, 0x3FFE0, 0, 0⟩ [] with secv := true }, by decide⟩

/-- The error clauses of the command statements: for each command a state whose last check, the one before it passing, fails
by one byte or by one. -/
theorem witness_errors_of_the_ranges :
    (∃ s : State, s.operands.algCode = 0 ∧ s.operands.lenN = 8 ∧ Config.bufSize < s.operands.srcN + s.operands.lenN) ∧
    (∃ s : State, s.keyed = true ∧ s.operands.modeCode = 1 ∧ s.operands.padCode = 0 ∧ s.operands.ivp = true ∧
      s.operands.len2N = s.blockSize ∧ Config.bufSize < s.operands.src2N + s.blockSize) ∧
    (∃ s : State, s.keyed = true ∧ s.operands.lenN = s.blockSize ∧ Config.bufSize < s.operands.srcN + s.blockSize) ∧
    (∃ s : State, s.operands.padCode = 0 ∧ 8 ≠ 0 ∧ Config.bufSize < s.operands.srcN + s.operands.lenN) ∧
    (∃ s : State, s.operands.lenN = 256 ∧ Config.bufSize < s.operands.srcN + s.operands.lenN) ∧
    (∃ s : State, s.rc4k = true ∧ Config.bufSize < s.operands.srcN + s.operands.lenN) :=
  ⟨⟨issued 0x01 ⟨0, 0x3FFF9, 8, 0, 0, 0⟩ [], by decide⟩,
    ⟨{ issued 0x02 ⟨0x810, 0, 0, 0, 0x3FFF9, 8⟩ [] with keyed := true }, by decide⟩,
    ⟨{ issued 0x03 ⟨0, 0x3FFF9, 8, 0, 0, 0⟩ [] with keyed := true }, by decide⟩,
    ⟨issued 0x00080007 ⟨0, 0x3FFF9, 8, 0, 0, 0⟩ [], by decide⟩,
    ⟨issued 0x09 ⟨0, 0x3FF01, 256, 0, 0, 0⟩ [], by decide⟩,
    ⟨{ issued 0x0A ⟨0, 0x40000, 1, 0, 0, 0⟩ [] with rc4k := true }, by decide⟩⟩

theorem witness_errors_of_the_operations :
    (∃ s : State, s.ctxv = true ∧ s.opact = true ∧ s.opdir = true ∧ (false = false ∧ (s.opact = false ∨ s.opdir = true))) ∧
    (∃ s : State, s.ctxv = true ∧ s.opact = true ∧ s.opdir = false ∧ (false = false ∧ (s.opact = false ∨ s.opdir = false))) ∧
    (∃ s : State, Config.bufSize < s.operands.dstN + 192) ∧
    (∃ s : State, s.operands.lenN = 257 ∧ 256 < s.operands.lenN) ∧
    (∃ s : State, s.dhv = true ∧ 256 < s.operands.lenN) ∧
    (∃ s : State, s.secv = true ∧ 32 < s.operands.lenN) :=
  ⟨⟨{ issued 0x05 ⟨0, 0, 0, 0, 0, 0⟩ [] with ctxv := true, opact := true, opdir := true }, by decide⟩,
    ⟨{ issued 0x06 ⟨0, 0, 0, 0, 0, 0⟩ [] with ctxv := true, opact := true }, by decide⟩,
    ⟨issued 0x0B ⟨0, 0, 0, 0x3FF41, 0, 0⟩ [], by decide⟩, ⟨issued 0x0C ⟨0, 0, 257, 0, 0, 0⟩ [], by decide⟩,
    ⟨{ issued 0x0D ⟨0, 0, 257, 0, 0, 0⟩ [] with dhv := true }, by decide⟩,
    ⟨{ issued 0x0E ⟨0, 0, 33, 0, 0, 0⟩ [] with secv := true }, by decide⟩⟩

theorem witness_BlockCipherIsInverted :
    nowIsT.length = Alg.blockSize .tdes ∧ (List.replicate 16 0xAA#8).length = Alg.blockSize .loki := by decide

theorem witness_LokiIsKeyIndependent :
    Alg.legalKeyLength .loki (List.replicate 16 0#8).length = true ∧
    Alg.legalKeyLength .loki (List.replicate 32 0xFF#8).length = true := by decide

/-- KD and KD with every parity bit cleared (95_test_vectors.md L2.1): two different keys. -/
theorem witness_DesParityBitsAreIgnored :
    kd.length = 8 ∧ ([0x00, 0x22, 0x44, 0x66, 0x88, 0xAA, 0xCC, 0xEE] : Bytes).length = 8 ∧
    (∀ n, n < 8 → kd.getD n 0 >>> 1 = ([0x00, 0x22, 0x44, 0x66, 0x88, 0xAA, 0xCC, 0xEE] : Bytes).getD n 0 >>> 1) ∧
    kd ≠ [0x00, 0x22, 0x44, 0x66, 0x88, 0xAA, 0xCC, 0xEE] := by decide

/-- The ends of the range of block sizes, for a scheme that draws and for Zeros. -/
theorem witness_UnpadUndoesPad :
    (1 ≤ 255 ∧ 255 ≤ 255 ∧ (List.replicate 252 0xC5#8).length = padDraws .iso10126 ([1, 2] : Bytes).length 255 ∧
      Scheme.iso10126 ≠ .zeros) ∧
    (1 ≤ 1 ∧ 1 ≤ 255 ∧ ([] : Bytes).length = padDraws .zeros ([1, 0] : Bytes).length 1) := by
  exact ⟨⟨by decide, by decide, List.length_replicate, by decide⟩, by decide⟩

/-- A block mode with one block, and a stream mode with a short block. -/
theorem witness_DecryptionUndoesEncryptionInEveryMode :
    ivd.length = Alg.blockSize .des ∧ (Mode.isBlock .cbc = true → nowIsT.length % Alg.blockSize .des = 0) ∧
    (Mode.isBlock .ctr = true → ([1, 2, 3] : Bytes).length % Alg.blockSize .des = 0) := by decide

theorem witness_ChunkingDoesNotMatter : 0 < (⟨.cbc, ivd, false, 8⟩ : ModeCtx).b ∧
    nowIsT.length % (⟨.cbc, ivd, false, 8⟩ : ModeCtx).b = 0 := by decide

theorem witness_OfbAndCtrAreSymmetric :
    (⟨.ofb, ivd, false, 8⟩ : ModeCtx).mode = .ofb ∧ (⟨.ctr, ivd, true, 8⟩ : ModeCtx).mode = .ctr := by decide

theorem witness_CbcFeedbackIsTheLastCiphertextBlock : nowIsT.length = (0 + 1) * Alg.blockSize .des := by decide

theorem witness_ModExpIsExact : 3 ≤ 3 ∧ 1 ≤ 1 := by decide

theorem witness_DiffieHellmanAgrees : 3 ≤ 23 ∧ 1 ≤ 6 ∧ 1 ≤ 15 := by decide

theorem witness_TcIsTheMinimalEncoding : 1 ≤ 2 ∧ 0x80 < 2 ^ (8 * 2 - 1) := by decide

/-- CTX in flight with CTRL = 0x910 and the snapshot of the registers. -/
theorem witness_StepKeepsTheWindowInvariant :
    ∃ s t : State, s.busy = true ∧ windowInv s ∧ step s = .next t :=
  ⟨issued 0x02 ⟨0x910, 0, 0, 0, 0, 0⟩ [], _, rfl,
    ⟨by decide, by decide, fun h => Bool.noConfusion h, fun c hc => by cases hc; exact ⟨rfl, rfl, rfl, rfl⟩⟩, rfl⟩

/-- A keyed core with a context and BUF contents, NOP in flight. -/
theorem witness_StepKeepsTheCipherInvariant :
    ∃ s t : State, s.ctxv = true ∧ cipherInv s ∧ step s = .next t :=
  ⟨withCtx .cbc .pkcs7 (issued 0x00 ⟨0, 0, 0, 0, 0, 0⟩ []), _, rfl, cipherInv_withCtx _ _ _ _, rfl⟩

/-- A keyed RC4 unit with the identity permutation; the toy group p = 23, g = 5, x = 6, y = 8 with the secret 2
(95_test_vectors.md L2.9). -/
def keyedUnits : State :=
  { issued 0x00 ⟨0, 0, 0, 0, 0, 0⟩ [] with
    rc4k := true, rcS := rc4Identity
    dhv := true, dhp := 23, dhg := 5, plen := 1, dhx := 6, dhy := 8, secv := true, sreg := 2 }

theorem keyedUnits_rc4Inv : rc4Inv keyedUnits :=
  ⟨(List.length_map _).trans List.length_range, fun _ => List.Perm.refl _⟩

theorem keyedUnits_dhInv : dhInv keyedUnits := ⟨fun _ => by decide +kernel, fun _ => by decide⟩

theorem witness_StepKeepsTheRc4AndDhInvariants :
    ∃ s t : State, s.rc4k = true ∧ s.secv = true ∧ rc4Inv s ∧ dhInv s ∧ step s = .next t :=
  ⟨keyedUnits, complete 0 keyedUnits, rfl, rfl, keyedUnits_rc4Inv, keyedUnits_dhInv, rfl⟩

/-- Bytes at both ends of BUF. -/
theorem witness_StepKeepsBufCanonical :
    ∃ s t : State, cipherInv s ∧ bufInv s ∧ s.mem ≠ [] ∧ step s = .next t :=
  ⟨withCtx .cbc .pkcs7 (issued 0x00 ⟨0, 0, 0, 0, 0, 0⟩ [(0, 7), (262143, 9)]), _, cipherInv_withCtx _ _ _ _,
    ⟨by decide, by decide⟩, by decide, rfl⟩

/-! The host's code -/

/-- What the host's code ends with. -/
def endsWith (o : Host.Outcome HostRun Fault Refusal) (f : HostRun → Bool) : Bool :=
  match o with
  | .next r => f r
  | .fault _ => false
  | .refused _ => false

/-- A keyed core with a context, idle. -/
def idleCtx (m : Mode) (p : Scheme) : State := withCtx m p State.reset

/-- The encryption loop on an empty stream: one empty chunk, and in CBC with PKCS7 one block of padding
(95_test_vectors.md L2.7, 70_reset_and_hazards.md R173), after the IV the writer has been given. -/
theorem test_encStream_empty :
    endsWith (encStream ⟨0, 0, 0x10, 0⟩ ivd [] (idleCtx .cbc .pkcs7))
      (fun r => r.out == ivd ++ [0xC2, 0x11, 0x06, 0x44, 0x8C, 0x1E, 0x13, 0xC5] && r.error == none && !r.core.opact)
      = true := by decide +kernel

/-- The decryption loop stops with LengthError at a chunk of three bytes in a block mode, and the writer gets nothing (R173). -/
theorem test_decStream_broken_length :
    endsWith (decStream ⟨0, 0, 0x10, 0⟩ [1, 2, 3] (idleCtx .cbc .pkcs7))
      (fun r => r.out == [] && r.error == some 0x08 && r.core.errcode == 0x08) = true := by decide +kernel

/-- The IV prefix on decryption: IVD and then that block give the empty stream back (R173). -/
theorem test_decStreamPrefixed :
    endsWith (decStreamPrefixed ⟨0x910, 0, 0x10, 0x20⟩ 8 (ivd ++ [0xC2, 0x11, 0x06, 0x44, 0x8C, 0x1E, 0x13, 0xC5])
        { State.reset with keyed := true, key := kd, sched := scheduleOf .des kd })
      (fun r => r.out == [] && r.error == none && r.core.iv == some ivd && r.core.outlen == 0) = true := by decide +kernel

/-- One read ahead: a short chunk is the last whatever is read after it, and so is one after which nothing is read; nothing
read at all is one empty chunk (R173). -/
theorem test_chunks :
    decChunks true [1, 2] [] = [⟨[1, 2], true, true⟩] ∧ encChunks true [[1, 2]] = [⟨[1, 2], true, true⟩] ∧
    decChunks true [] [] = [⟨[], true, true⟩] ∧ encChunks true [] = [⟨[], true, true⟩] := by decide

/-- A short stream is one chunk in both loops. -/
theorem witness_ChunksOfAStream :
    [⟨nowIsT, true, true⟩] = encChunks true (readsOf nowIsT) ∧
    [⟨nowIsT, true, true⟩] = decChunks true ((readsOf nowIsT).headD []) (readsOf nowIsT).tail := by decide +kernel

theorem cipherInv_idleCtx : cipherInv (idleCtx .cbc .pkcs7) :=
  ⟨fun _ => ⟨rfl, rfl⟩, fun _ => ⟨rfl, by simp [idleCtx, withCtx]⟩, fun v hv => by cases hv; rfl,
    fun h => Bool.noConfusion h⟩

/-- Eight bytes into the last eight of BUF. -/
theorem witness_HostCommandGivesTheCommandsOutput :
    cipherInv (idleCtx .cbc .pkcs7) ∧ (idleCtx .cbc .pkcs7).host = [] ∧ (idleCtx .cbc .pkcs7).inflight = none ∧
    (0x3FFF8 : Word).toNat + nowIsT.length ≤ Config.bufSize := ⟨cipherInv_idleCtx, rfl, rfl, by decide⟩

/-- SRC of the last place a chunk fits, and DST so that its padding fits too. -/
theorem witness_EncryptStreamIsOneEncryption :
    cipherInv (idleCtx .cbc .pkcs7) ∧ (idleCtx .cbc .pkcs7).ctxv = true ∧ (idleCtx .cbc .pkcs7).host = [] ∧
    (idleCtx .cbc .pkcs7).inflight = none ∧ (0x30000 : Word).toNat + 65536 ≤ Config.bufSize ∧
    (0x2FFF8 : Word).toNat + 65536 + (idleCtx .cbc .pkcs7).blockSize ≤ Config.bufSize :=
  ⟨cipherInv_idleCtx, rfl, rfl, rfl, by decide, by decide⟩

/-- Whole blocks in a block mode, and a stream that is not. -/
theorem witness_DecryptStreamIsOneDecryption :
    cipherInv (idleCtx .cbc .pkcs7) ∧ (idleCtx .cbc .pkcs7).ctxv = true ∧ (idleCtx .cbc .pkcs7).host = [] ∧
    (idleCtx .cbc .pkcs7).inflight = none ∧ (0x30000 : Word).toNat + 65536 ≤ Config.bufSize ∧
    nowIsT.length % (idleCtx .cbc .pkcs7).blockSize = 0 ∧
    ((idleCtx .cbc .pkcs7).lmode.isBlock = true ∧ ([1, 2, 3] : Bytes).length % (idleCtx .cbc .pkcs7).blockSize ≠ 0) :=
  ⟨cipherInv_idleCtx, rfl, rfl, rfl, by decide, by decide, by decide⟩

/-- CTRL asks for CBC with PKCS7 and an IV; the IV stands in the last eight bytes of BUF. -/
theorem witness_IvPrefixIsTheHostsWork :
    cipherInv (idleCtx .cbc .pkcs7) ∧ (idleCtx .cbc .pkcs7).keyed = true ∧ (idleCtx .cbc .pkcs7).host = [] ∧
    (idleCtx .cbc .pkcs7).inflight = none ∧ modeOf ((0x910 : Word).extractLsb' 4 3) = some .cbc ∧ Mode.cbc ≠ .ecb ∧
    schemeOf ((0x910 : Word).extractLsb' 8 3) = some .pkcs7 ∧ (0x910 : Word).getLsbD 11 = true ∧
    ivd.length = (idleCtx .cbc .pkcs7).blockSize ∧
    (0x3FFF8 : Word).toNat + (idleCtx .cbc .pkcs7).blockSize ≤ Config.bufSize :=
  ⟨cipherInv_idleCtx, rfl, rfl, rfl, by decide, by decide, by decide, by decide, by decide, by decide⟩

end Sys2Proof.Tests
end

/-! The register window: reserved and read-only offsets, and what a host access of a register does (10_state.md R16 to R32). -/

namespace Sys2Proof.Proofs

open Machine

/-- From 0x034 on the register window is reserved (10_state.md R16, R17). -/
theorem regRead_reserved (s : State) {off : Nat} (h : 0x034 ≤ off) : regRead s off = 0 := by
  obtain ⟨k, rfl⟩ := Nat.exists_eq_add_of_le' h
  rfl

theorem regWrite_reserved (v : Word) (s : State) {off : Nat} (h : 0x034 ≤ off) : regWrite off v s = s := by
  obtain ⟨k, rfl⟩ := Nat.exists_eq_add_of_le' h
  rfl

/-- A 64-bit register is its two 32-bit halves. -/
theorem halves_append (x : BitVec 64) : x.extractLsb' 32 32 ++ x.extractLsb' 0 32 = x := by
  rw [BitVec.extractLsb'_append_extractLsb'_eq_extractLsb' (by rfl)]
  exact BitVec.extractLsb'_eq_self

/-- Settles O10: constants, the two halves of BLKIDX, and offsets past the last register. -/
theorem reservedAndReadOnlyOffsets : Obligations.ReservedAndReadOnlyOffsets := fun s v =>
  ⟨rfl, rfl, halves_append s.blkidx, fun _ h => ⟨regRead_reserved s h, regWrite_reserved v s h⟩, rfl, rfl, rfl, rfl, rfl⟩

/-- An aligned 32-bit access of the register window reaches the register there (20_memory.md R47). -/
theorem accessOf_register {off : Nat} (hoff : off < 0x100) (halign : off % 4 = 0) :
    accessOf .w32 off = .ok (.reg off) := by
  simp [accessOf, Width.bytes?, accessAt, Config.regWindow, hoff, halign]

theorem hostRead_register {s : State} {off : Nat} (hoff : off < 0x100) (halign : off % 4 = 0) :
    hostRead .w32 off s = .next (answer (.b32 (regRead s off)) s) := by
  simp [hostRead, accessOf_register hoff halign]

theorem hostWrite_register {s : State} {off : Nat} (v : Word) (hidle : s.busy = false) (hoff : off < 0x100)
    (halign : off % 4 = 0) : hostWrite .w32 off v s = .next (regWrite off v s) := by
  simp [hostWrite, accessOf_register hoff halign, hidle]

/-- Settles O11: an access while not busy is the access of the register, and each write is the update it names. -/
theorem registerWritesReadBack : Obligations.RegisterWritesReadBack := fun s v =>
  ⟨fun _ hidle hoff halign => ⟨hostRead_register hoff halign, hostWrite_register v hidle hoff halign⟩,
    rfl, rfl, rfl, rfl, rfl, rfl, rfl, by
      simp only [List.forall_mem_cons]
      exact ⟨rfl, rfl, rfl, rfl, rfl, List.forall_mem_nil _⟩, rfl⟩

end Sys2Proof.Proofs

/-! The STATUS word bit by bit (10_state.md R24). -/

namespace Sys2Proof.Proofs

open Machine

/-- BSZ between the two reserved fields: bits 31..11 of STATUS (10_state.md R24). -/
def statusHigh (s : State) : BitVec (8 + 8 + 5) := 0#8 ++ bszField s ++ 0#5

/-- STATUS is built from bit 31 down, one flag at a time. -/
theorem statusWord_eq_concat (s : State) :
    statusWord s = (((((((((((statusHigh s).concat s.secv).concat s.dhv).concat s.rc4k).concat s.opdir).concat
      s.opact).concat s.ctxv).concat s.keyed).concat s.haz).concat s.err).concat s.done).concat s.busy := rfl

/-- The flags of STATUS, bit 0 first. -/
def statusFlags (s : State) : List Bool :=
  [s.busy, s.done, s.err, s.haz, s.keyed, s.ctxv, s.opact, s.opdir, s.rc4k, s.dhv, s.secv]

theorem statusWord_flag (s : State) (k : Nat) (h : k < 11) :
    (statusWord s).getLsbD k = (statusFlags s)[k] := by
  rw [statusWord_eq_concat]
  interval_cases k <;> simp only [BitVec.getLsbD_concat_succ, BitVec.getLsbD_concat_zero, statusFlags,
    List.getElem_cons_succ, List.getElem_cons_zero]

theorem statusWord_above (s : State) (k : Nat) : (statusWord s).getLsbD (k + 11) = (statusHigh s).getLsbD k := by
  rw [statusWord_eq_concat]
  simp only [BitVec.getLsbD_concat_succ]

/-- A field of STATUS above the flags is a field of `statusHigh`. -/
theorem extractLsb'_statusWord (s : State) (k n : Nat) :
    (statusWord s).extractLsb' (k + 11) n = (statusHigh s).extractLsb' k n := by
  ext i hi
  simp only [BitVec.getElem_extractLsb', ← statusWord_above]
  congr 1
  omega

theorem statusWord_reserved (s : State) : (statusWord s).extractLsb' 11 5 = 0 :=
  (extractLsb'_statusWord s 0 5).trans BitVec.extractLsb'_append_eq_right

theorem statusWord_bsz (s : State) : (statusWord s).extractLsb' 16 8 = bszField s :=
  calc
    (statusWord s).extractLsb' 16 8 = (statusHigh s).extractLsb' 5 8 := extractLsb'_statusWord s 5 8
    _ = (0#8 ++ bszField s).extractLsb' 0 8 := BitVec.extractLsb'_append_eq_of_le (by decide)
    _ = bszField s := BitVec.extractLsb'_append_eq_right

theorem statusWord_high (s : State) : (statusWord s).extractLsb' 24 8 = 0 :=
  calc
    (statusWord s).extractLsb' 24 8 = (statusHigh s).extractLsb' 13 8 := extractLsb'_statusWord s 13 8
    _ = (0#8 ++ bszField s).extractLsb' 8 8 := BitVec.extractLsb'_append_eq_of_le (by decide)
    _ = 0 := BitVec.extractLsb'_append_eq_left

theorem bszField_eq (s : State) :
    bszField s = if s.keyed then (match s.lalg with | .des => 8 | .tdes => 8 | .loki => 16) else 0 := by
  unfold bszField State.blockSize Alg.blockSize
  cases s.lalg <;> rfl

/-- Settles O12: the flags by their place in `statusFlags`, the fields above them by their place in `statusHigh`. -/
theorem statusWordFields : Obligations.StatusWordFields := fun s =>
  ⟨rfl, BitVec.setWidth_eq_append (by decide), rfl, statusWord_flag s 0 (by decide), statusWord_flag s 1 (by decide),
    statusWord_flag s 2 (by decide), statusWord_flag s 3 (by decide), statusWord_flag s 4 (by decide),
    statusWord_flag s 5 (by decide), statusWord_flag s 6 (by decide), statusWord_flag s 7 (by decide),
    statusWord_flag s 8 (by decide), statusWord_flag s 9 (by decide), statusWord_flag s 10 (by decide),
    statusWord_reserved s, (statusWord_bsz s).trans (bszField_eq s), statusWord_high s⟩

end Sys2Proof.Proofs

/-! No host access reads the hidden state (10_state.md R42). -/

namespace Sys2Proof.Proofs

open Machine

@[simp] theorem withHidden_busy (h : Hidden) (s : State) : (withHidden h s).busy = s.busy := rfl

theorem regRead_withHidden (h : Hidden) (s : State) (off : Nat) : regRead (withHidden h s) off = regRead s off := rfl

theorem bufValue_withHidden (h : Hidden) (s : State) (a n : Nat) :
    bufValue (withHidden h s) a n = bufValue s a n :=
  congrArg (fun v => BitVec.ofNat 32 (leNat v)) (Laws.bufRead_congr (by rfl) (by rfl) a n)

/-- With other hidden contents the outcome is the same, but for the hidden contents of a next state. -/
def HiddenCarried (h : Hidden) (o o' : Host.Outcome State Fault Refusal) : Prop :=
  (∀ t, o = .next t → o' = .next (withHidden h t)) ∧ ∀ f, o = .fault f → o' = .fault f

theorem hiddenCarried_fault (h : Hidden) (f : Fault) : HiddenCarried h (.fault f) (.fault f) :=
  ⟨fun _ ht => (by cases ht), fun _ hf => hf⟩

theorem hiddenCarried_next {h : Hidden} {t t' : State} (ht : t' = withHidden h t) :
    HiddenCarried h (.next t) (.next t') :=
  ⟨fun _ hu => by cases hu; rw [ht], fun _ hf => by cases hf⟩

theorem hostRead_withHidden (h : Hidden) (w : Width) (off : Nat) (s : State) :
    HiddenCarried h (hostRead w off s) (hostRead w off (withHidden h s)) := by
  unfold hostRead
  cases accessOf w off with
  | error f => exact hiddenCarried_fault h f
  | ok acc =>
    cases acc with
    | reg r =>
      refine hiddenCarried_next ?_
      rw [regRead_withHidden]
      rfl
    | buf a n =>
      refine hiddenCarried_next ?_
      rw [bufValue_withHidden, withHidden_busy]
      split <;> rfl

theorem regWrite_withHidden (h : Hidden) (off : Nat) (v : Word) (s : State) :
    regWrite off v (withHidden h s) = withHidden h (regWrite off v s) := by
  unfold regWrite
  split <;> rfl

theorem hostWrite_withHidden (h : Hidden) (w : Width) (off : Nat) (v : Word) (s : State) :
    HiddenCarried h (hostWrite w off v s) (hostWrite w off v (withHidden h s)) := by
  unfold hostWrite
  cases accessOf w off with
  | error f => exact hiddenCarried_fault h f
  | ok acc =>
    cases acc with
    | reg r =>
      refine hiddenCarried_next ?_
      rw [regWrite_withHidden, withHidden_busy]
      split <;> rfl
    | buf a n =>
      refine hiddenCarried_next ?_
      rw [withHidden_busy]
      split <;> rfl

/-- Every host access but the reset carries other hidden contents along unread. -/
theorem hostStep_withHidden (h : Hidden) {op : HostOp} (hop : op ≠ .reset) (s : State) :
    HiddenCarried h (hostStep op s) (hostStep op (withHidden h s)) := by
  cases op with
  | read w off => exact hostRead_withHidden h w off s
  | write w off v => exact hostWrite_withHidden h w off v s
  | wait => exact hiddenCarried_next rfl
  | reset => exact absurd rfl hop

/-- The reset input replaces the hidden contents, whatever they were. -/
theorem hardReset_withHidden (h : Hidden) (s : State) : hardReset (withHidden h s) = hardReset s := rfl

/-- Settles O21: every access carries the hidden contents along, but for the reset, which replaces them. -/
theorem hiddenStateHasNoReadPath : Obligations.HiddenStateHasNoReadPath := by
  intro h op s
  by_cases hop : op = .reset
  · subst hop
    have heq : hostStep .reset (withHidden h s) = hostStep .reset s :=
      congrArg Host.Outcome.next (hardReset_withHidden h s)
    rw [heq]
    exact ⟨fun t ht => ⟨t, ht, rfl, rfl⟩, fun _ hf => hf⟩
  · obtain ⟨hnext, hfault⟩ := hostStep_withHidden h hop s
    exact ⟨fun t ht => ⟨_, hnext t ht, rfl, by simp [hop]⟩, hfault⟩

end Sys2Proof.Proofs

/-! DHX acts through DHS only (10_state.md R38). -/

namespace Sys2Proof.Proofs

open Machine

/-- The state with another DHX. -/
def withDhx (x : BitVec 256) (s : State) : State := { s with dhx := x }

@[simp] theorem withDhx_operands (x : BitVec 256) (s : State) : (withDhx x s).operands = s.operands := rfl
@[simp] theorem withDhx_keyed (x : BitVec 256) (s : State) : (withDhx x s).keyed = s.keyed := rfl
@[simp] theorem withDhx_sreg (x : BitVec 256) (s : State) : (withDhx x s).sreg = s.sreg := rfl

@[simp] theorem bufRead_withDhx (x : BitVec 256) (s : State) (a n : Nat) :
    bufRead (withDhx x s) a n = bufRead s a n := Laws.bufRead_congr (by rfl) (by rfl) a n

/-- A command whose checks do not read DHX and whose effect carries it along carries it along whether it fails or not. -/
theorem afterChecks_withDhx {x : BitVec 256} {cs cs' : List (Bool × ErrorKind)} {ok ok' : State} (hcs : cs' = cs)
    (hok : ok' = withDhx x ok) (b : Bool) (s : State) :
    afterChecks b cs' ok' (withDhx x s) = withDhx x (afterChecks b cs ok s) := by
  subst hcs hok
  unfold afterChecks
  split <;> rfl

theorem keyWith_withDhx (x : BitVec 256) (a : Alg) (s : State) : keyWith a (withDhx x s) = withDhx x (keyWith a s) :=
  afterChecks_withDhx rfl (by rw [bufRead_withDhx]; rfl) _ _

theorem oneBlock_withDhx (x : BitVec 256) (f : KeySchedule → Bytes → Bytes) (s : State) :
    oneBlock f (withDhx x s) = withDhx x (oneBlock f s) :=
  afterChecks_withDhx rfl (by rw [bufRead_withDhx]; rfl) _ _

theorem padWith_withDhx (x : BitVec 256) (sch : Scheme) (bs : Nat) (s : State) :
    padWith sch bs (withDhx x s) = withDhx x (padWith sch bs s) :=
  afterChecks_withDhx rfl (by rw [bufRead_withDhx]; rfl) _ _

theorem unpadWith_withDhx (x : BitVec 256) (sch : Scheme) (bs : Nat) (s : State) :
    unpadWith sch bs (withDhx x s) = withDhx x (unpadWith sch bs s) :=
  afterChecks_withDhx rfl (by rw [bufRead_withDhx]; rfl) _ _

theorem ctxWith_withDhx (x : BitVec 256) (m : Mode) (p : Scheme) (s : State) :
    ctxWith m p (withDhx x s) = withDhx x (ctxWith m p s) :=
  afterChecks_withDhx rfl (by rw [bufRead_withDhx]; rfl) _ _

theorem encInput_withDhx (x : BitVec 256) (lf : Bool) (s : State) : encInput lf (withDhx x s) = encInput lf s := by
  unfold encInput
  rw [bufRead_withDhx]
  rfl

/-- The command answers alike with another DHX, which it leaves where it is. -/
def CarriesDhx (i : Instr) : Prop :=
  ∀ (x : BitVec 256) (s : State), ∃ t, exec i s = .next t ∧ exec i (withDhx x s) = .next (withDhx x t)

theorem carriesDhx_of_next {i : Instr} {f : State → State} (hf : ∀ s, exec i s = .next (f s))
    (hcomm : ∀ x s, f (withDhx x s) = withDhx x (f s)) : CarriesDhx i := fun x s =>
  ⟨f s, hf s, by rw [hf, hcomm]⟩

theorem key_carriesDhx : CarriesDhx .key := by
  refine carriesDhx_of_next (fun _ => rfl) fun x s => ?_
  rw [withDhx_operands]
  split
  · rfl
  · exact keyWith_withDhx x _ s

theorem ctx_carriesDhx : CarriesDhx .ctx := by
  refine carriesDhx_of_next (fun _ => rfl) fun x s => ?_
  rw [withDhx_operands, withDhx_keyed]
  split
  · split
    · rfl
    · split
      · rfl
      · exact ctxWith_withDhx x _ _ s
  · rfl

theorem pad_carriesDhx (bs : Nat) : CarriesDhx (.pad bs) := by
  refine carriesDhx_of_next (fun _ => rfl) fun x s => ?_
  rw [withDhx_operands]
  split
  · rfl
  · exact padWith_withDhx x _ bs s

theorem unpad_carriesDhx (bs : Nat) : CarriesDhx (.unpad bs) := by
  refine carriesDhx_of_next (fun _ => rfl) fun x s => ?_
  rw [withDhx_operands]
  split
  · rfl
  · exact unpadWith_withDhx x _ bs s

theorem enc_carriesDhx (lf bf : Bool) : CarriesDhx (.enc lf bf) :=
  carriesDhx_of_next (fun _ => rfl) fun _ _ => afterChecks_withDhx rfl (by rw [encInput_withDhx]; rfl) _ _

theorem dec_carriesDhx (lf bf : Bool) : CarriesDhx (.dec lf bf) :=
  carriesDhx_of_next (fun _ => rfl) fun _ _ => afterChecks_withDhx rfl (by rw [bufRead_withDhx]; rfl) _ _

theorem rc4key_carriesDhx : CarriesDhx .rc4key := by
  refine carriesDhx_of_next (fun _ => rfl) fun x s => afterChecks_withDhx rfl ?_ _ _
  simp only [bufRead_withDhx, withDhx_operands]
  generalize ksa _ = permutation
  rfl

theorem rc4_carriesDhx : CarriesDhx .rc4 :=
  carriesDhx_of_next (fun _ => rfl) fun _ _ => afterChecks_withDhx rfl (by rw [bufRead_withDhx]; rfl) _ _

theorem dhk_carriesDhx : CarriesDhx .dhk :=
  carriesDhx_of_next (fun _ => rfl) fun _ _ =>
    afterChecks_withDhx rfl (by simp only [withDhx_sreg, withDhx_operands]; rfl) _ _

/-- Every command that neither computes with DHX nor replaces it. -/
theorem carriesDhx {i : Instr} (hdhs : i ≠ .dhs) (hdh : ¬ (i = .dhi ∨ i = .dhr)) (hsrst : i ≠ .srst) :
    CarriesDhx i := by
  cases i with
  | nop => exact carriesDhx_of_next (fun _ => rfl) fun _ _ => rfl
  | key => exact key_carriesDhx
  | ctx => exact ctx_carriesDhx
  | encb => exact carriesDhx_of_next (fun _ => rfl) fun x s => oneBlock_withDhx x encryptBlock s
  | decb => exact carriesDhx_of_next (fun _ => rfl) fun x s => oneBlock_withDhx x decryptBlock s
  | enc lf bf => exact enc_carriesDhx lf bf
  | dec lf bf => exact dec_carriesDhx lf bf
  | pad bs => exact pad_carriesDhx bs
  | unpad bs => exact unpad_carriesDhx bs
  | rc4key => exact rc4key_carriesDhx
  | rc4 => exact rc4_carriesDhx
  | dhk => exact dhk_carriesDhx
  | dhs => exact absurd rfl hdhs
  | dhi => exact absurd (.inl rfl) hdh
  | dhr => exact absurd (.inr rfl) hdh
  | srst => exact absurd rfl hsrst

/-- A command that replaces DHX when it succeeds: with another DHX before it, it fails alike, carrying DHX along, or it
succeeds with the very same state. -/
def ReplacesDhx (i : Instr) : Prop :=
  ∀ (x : BitVec 256) (s : State), ∃ t t', exec i s = .next t ∧ exec i (withDhx x s) = .next t' ∧
    ((t.err = false ∧ t' = t) ∨ (t.err = true ∧ t' = withDhx x t))

/-- Checks that do not read DHX, before an effect that replaces it. -/
theorem afterChecks_replacesDhx {x : BitVec 256} {cs : List (Bool × ErrorKind)} {ok : State} (hok : ok.err = false)
    (b : Bool) (s : State) :
    ((afterChecks b cs ok s).err = false ∧ afterChecks b cs ok (withDhx x s) = afterChecks b cs ok s) ∨
    ((afterChecks b cs ok s).err = true ∧
      afterChecks b cs ok (withDhx x s) = withDhx x (afterChecks b cs ok s)) := by
  unfold afterChecks
  split
  · exact .inr ⟨rfl, rfl⟩
  · exact .inl ⟨hok, rfl⟩

theorem dhi_replacesDhx : ReplacesDhx .dhi := fun _ s =>
  ⟨_, _, rfl, rfl, afterChecks_replacesDhx rfl false s⟩

theorem dhr_replacesDhx : ReplacesDhx .dhr := fun x s => by
  refine ⟨_, _, rfl, rfl, ?_⟩
  simp only [bufRead_withDhx, withDhx_operands]
  exact afterChecks_replacesDhx rfl false s

/-- Settles O22: DHX is carried along unread, or replaced. -/
theorem privateExponentActsOnlyThroughDhs : Obligations.PrivateExponentActsOnlyThroughDhs := by
  intro i s x hdhs
  by_cases hdh : i = .dhi ∨ i = .dhr
  · have hsrst : i ≠ .srst := by rintro rfl; simp at hdh
    have hi : ReplacesDhx i := by rcases hdh with rfl | rfl; exacts [dhi_replacesDhx, dhr_replacesDhx]
    obtain ⟨t, t', ht, ht', ⟨herr, heq⟩ | ⟨herr, heq⟩⟩ := hi x s
    · exact ⟨t, t', ht, ht', fun _ => heq, fun hn => absurd (.inr ⟨hdh, herr⟩) hn⟩
    · exact ⟨t, t', ht, ht', by simp [hsrst, herr], fun _ => heq⟩
  by_cases hsrst : i = .srst
  · subst hsrst
    exact ⟨_, _, rfl, rfl, fun _ => rfl, fun hn => absurd (.inl rfl) hn⟩
  · obtain ⟨t, ht, ht'⟩ := carriesDhx hdhs hdh hsrst x s
    exact ⟨t, _, ht, ht', by simp [hsrst, hdh], fun _ => rfl⟩

end Sys2Proof.Proofs

/-! What a command can do, said once for all sixteen: an error, or the effect of its unit and the completion. -/

namespace Sys2Proof.Proofs

open Machine

/-- The commands whose effect lies in BUF and the counter of draws. -/
def writesBufOnly : Instr → Bool
  | .nop | .encb | .decb | .pad _ | .unpad _ | .dhk => true
  | .key | .ctx | .enc _ _ | .dec _ _ | .rc4key | .rc4 | .dhi | .dhr | .dhs | .srst => false

/-- What a command that passes its checks does before it completes: one case for each unit, with the facts its checks leave.
BUF's new content `m`, the counter `d` and the registers of the RC4 and Diffie-Hellman units are left open. -/
inductive Effect : Instr → State → State → Prop
  | buf {i : Instr} {s : State} (hi : writesBufOnly i = true) (m : Memory) (d : Nat) :
      Effect i s { s with mem := m, draws := d }
  | key {s : State} {a : Alg} {k : Bytes} (hlegal : a.legalKeyLength k.length = true) :
      Effect .key s { s with key := k, lalg := a, keyed := true, sched := scheduleOf a k,
                             ctxv := false, iv := none, opact := false }
  | ctx {s : State} {mode : Mode} {iv : Option Bytes} (pad : Scheme) (le : Bool) (hkeyed : s.keyed = true)
      (hmode : iv = none ↔ mode = .ecb) (hiv : ∀ v, iv = some v → v.length = s.blockSize) :
      Effect .ctx s { s with iv := iv, lmode := mode, lpad := pad, lctrle := le, ctxv := true, opact := false }
  | chunk {i : Instr} {s : State} (lf bf dir : Bool) {x : Bytes} (hi : i = if dir then .dec lf bf else .enc lf bf)
      (hctxv : s.ctxv = true) (hop : bf = true ∨ s.opact = true) (hwhole : lf = true ∨ x.length % s.blockSize = 0)
      (m : Memory) (d : Nat) :
      Effect i s { afterChunk lf bf dir (runChunk s.sched (modeCtx s) dir (startRegs bf s) x).2 s with
                   mem := m, draws := d }
  | rc4 {i : Instr} {s : State} (hi : i = .rc4key ∨ i = .rc4) (keyed : Bool) (r : Rc4State) (m : Memory) :
      Effect i s { s with rc4k := keyed, rcS := r.s, rcI := r.i, rcJ := r.j, mem := m }
  | participant {i : Instr} {s : State} (hi : i = .dhi ∨ i = .dhr) (p g plen : Nat) (x : BitVec 256) (y : Nat)
      (m : Memory) (d : Nat) :
      Effect i s { s with dhp := p, dhg := g, plen := plen, dhx := x, dhy := y, dhv := true, secv := false, sreg := 0,
                          mem := m, draws := d }
  | secret {s : State} (z : Nat) (m : Memory) : Effect .dhs s { s with sreg := z, secv := true, mem := m }
  | srst {s : State} : Effect .srst s (softReset s)

/-- The command raised an error, which SRST does not, or had its effect and completed. -/
def Ends (i : Instr) (s t : State) : Prop :=
  (i ≠ .srst ∧ ∃ e, t = raiseError (endsOperation i) e s) ∨ ∃ n u, Effect i s u ∧ t = complete n u

theorem Ends.raised {i : Instr} {s : State} (hi : i ≠ .srst) (e : ErrorKind) :
    Ends i s (raiseError (endsOperation i) e s) := .inl ⟨hi, e, rfl⟩

theorem Ends.completed {i : Instr} {s u : State} (n : Nat) (h : Effect i s u) : Ends i s (complete n u) :=
  .inr ⟨n, u, h, rfl⟩

/-- ENC pads the LAST chunk only, so any other chunk that passes its length check is encrypted in whole blocks. -/
theorem encInput_whole {lf : Bool} {s : State} (h : lf = true ∨ s.operands.lenN % s.blockSize = 0) :
    lf = true ∨ (encInput lf s).length % s.blockSize = 0 :=
  h.elim .inl fun hlen => by cases lf <;> simp [encInput, hlen]

/-- What every command can do (00_scope.md R11, 60_exceptions.md R160). -/
theorem exec_ends {i : Instr} {s t : State} (h : exec i s = .next t) : Ends i s t := by
  cases i with
  | nop => cases h; exact .completed 0 (.buf rfl s.mem s.draws)
  | key =>
    rcases Laws.execKey_cases h with ⟨e, rfl⟩ | ⟨a, -, hlen, -, rfl⟩
    · exact .raised (by simp) e
    · exact .completed 0 (.key (by rwa [Laws.bufRead_length]))
  | ctx =>
    rcases Laws.execCtx_cases h with ⟨e, rfl⟩ | ⟨m, p, hkeyed, -, -, -, rfl⟩
    · exact .raised (by simp) e
    · refine .completed 0 (.ctx p _ hkeyed (by simp) fun v hv => ?_)
      obtain ⟨-, rfl⟩ : m ≠ .ecb ∧ bufRead s s.operands.src2N s.blockSize = v := by simpa using hv
      exact Laws.bufRead_length ..
  | encb =>
    rcases Laws.execEncb_cases h with ⟨e, rfl⟩ | ⟨-, -, -, -, rfl⟩
    · exact .raised (by simp) e
    · exact .completed _ (.buf rfl _ s.draws)
  | decb =>
    rcases Laws.execDecb_cases h with ⟨e, rfl⟩ | ⟨-, -, -, -, rfl⟩
    · exact .raised (by simp) e
    · exact .completed _ (.buf rfl _ s.draws)
  | enc lf bf =>
    rcases Laws.execEnc_cases h with ⟨e, rfl⟩ | ⟨hctxv, hop, hwhole, -, -, rfl⟩
    · exact .raised (by simp) e
    · exact .completed _ (.chunk lf bf false rfl hctxv (hop.imp_right And.left) (encInput_whole hwhole) _ _)
  | dec lf bf =>
    rcases Laws.execDec_cases h with ⟨e, rfl⟩ | ⟨hctxv, hop, hwhole, -, -, rfl⟩
    · exact .raised (by simp) e
    · exact .completed _ (.chunk lf bf true rfl hctxv (hop.imp_right And.left)
        (hwhole.imp And.right fun hw => by rwa [Laws.bufRead_length]) _ s.draws)
  | pad bs =>
    rcases Laws.execPad_cases h with ⟨e, rfl⟩ | ⟨_, -, -, -, -, rfl⟩
    · exact .raised (by simp) e
    · exact .completed _ (.buf rfl _ _)
  | unpad bs =>
    rcases Laws.execUnpad_cases h with ⟨e, rfl⟩ | ⟨_, -, -, -, -, rfl⟩
    · exact .raised (by simp) e
    · exact .completed _ (.buf rfl _ s.draws)
  | rc4key =>
    rcases Laws.execRc4key_cases h with ⟨e, rfl⟩ | ⟨-, -, -, rfl⟩
    · exact .raised (by simp) e
    · generalize ksa _ = permutation
      exact .completed 0 (.rc4 (.inl rfl) true ⟨permutation, 0, 0⟩ s.mem)
  | rc4 =>
    rcases Laws.execRc4_cases h with ⟨e, rfl⟩ | ⟨-, -, -, rfl⟩
    · exact .raised (by simp) e
    · exact .completed _ (.rc4 (.inr rfl) s.rc4k ⟨_, _, _⟩ _)
  | dhi =>
    rcases Laws.execDhi_cases h with ⟨e, rfl⟩ | ⟨-, rfl⟩
    · exact .raised (by simp) e
    · exact .completed _ (.participant (.inl rfl) ..)
  | dhr =>
    rcases Laws.execDhr_cases h with ⟨e, rfl⟩ | ⟨-, -, -, -, -, -, -, rfl⟩
    · exact .raised (by simp) e
    · exact .completed _ (.participant (.inr rfl) ..)
  | dhs =>
    rcases Laws.execDhs_cases h with ⟨e, rfl⟩ | ⟨-, -, -, -, rfl⟩
    · exact .raised (by simp) e
    · exact .completed _ (.secret _ _)
  | dhk =>
    rcases Laws.execDhk_cases h with ⟨e, rfl⟩ | ⟨-, -, -, rfl⟩
    · exact .raised (by simp) e
    · exact .completed _ (.buf rfl _ s.draws)
  | srst => cases h; exact .completed 0 .srst

/-- A command's effect touches nothing of the host's side; SRST clears HAZ. -/
theorem Effect.hostSide {i : Instr} {s u : State} (h : Effect i s u) :
    u.regs = s.regs ∧ u.haz = (if i = .srst then false else s.haz) ∧
      u.host = s.host ∧ u.replies = s.replies ∧ u.turns = s.turns ∧ u.bufGen = s.bufGen := by
  cases h with
  | buf hi =>
    have hne : i ≠ .srst := by rintro rfl; cases hi
    simp [hne]
  | key | ctx | secret | srst => simp
  | chunk lf bf dir hi => cases dir <;> subst hi <;> simp
  | rc4 hi => rcases hi with rfl | rfl <;> simp
  | participant hi => rcases hi with rfl | rfl <;> simp

/-- Settles O19: a raised error leaves the host's side alone, and so does every unit's effect. -/
theorem noCommandWritesTheHostsRegisters : Obligations.NoCommandWritesTheHostsRegisters := by
  intro i s t h
  rcases exec_ends h with ⟨hi, e, rfl⟩ | ⟨n, u, hu, rfl⟩
  · simp [hi]
  · exact hu.hostSide

/-- Settles O20: each case of `Effect` writes its own unit only, and an error at most ends the operation of ENC, DEC or CTX. -/
theorem unitsAreSeparate : Obligations.UnitsAreSeparate := by
  intro i s t h
  rcases exec_ends h with ⟨-, e, rfl⟩ | ⟨n, u, hu, rfl⟩
  · have hends (hctx : i ≠ .ctx) (hchunk : isChunk i = false) : endsOperation i = false := by
      cases i <;> simp_all [isChunk, endsOperation]
    simp +contextual [hends]
  · cases hu with
    | buf => simp
    | key | ctx | secret | srst => simp [isChunk]
    | chunk lf bf dir hi => cases dir <;> subst hi <;> simp [isChunk]
    | rc4 hi => rcases hi with rfl | rfl <;> simp
    | participant hi => rcases hi with rfl | rfl <;> simp

end Sys2Proof.Proofs

/-! Invariants of the step: two agents, so an invariant is kept when every command and every host step keeps it. -/

namespace Sys2Proof.Proofs

open Machine

/-- A predicate holds after a step when taking an access off the host's list and counting an arbitration keep it, every
command and the illegal word keep it, and every host step keeps it. -/
theorem step_preserves {P : State → Prop} (hside : ∀ s l n, P s → P { s with host := l, turns := n })
    (hexec : ∀ i s t, P s → exec i s = .next t → P t) (hillegal : ∀ s, P s → P (raiseError false .illegalCommand s))
    (hhost : ∀ op s t, P s → hostStep op s = .next t → P t) {s t : State} (hs : P s) (h : step s = .next t) : P t := by
  have hturn (op : HostOp) : P (afterTurn op s) := by
    rcases Laws.afterTurn_cases op s with h | h <;> rw [h]
    · exact hs
    · exact hside s s.host (s.turns + 1) hs
  have hengine {u : State} (hu : P u) (h : engineStep u = .next t) : P t := by
    rcases Laws.engineStep_cases h with ⟨-, rfl⟩ | ⟨_, i, -, -, hx⟩ | ⟨_, _, -, -, rfl⟩
    · exact hu
    · exact hexec i u t hu hx
    · exact hillegal u hu
  rcases Laws.step_cases h with ⟨-, he⟩ | ⟨op, _, -, -, he⟩ | ⟨op, rest, -, he⟩
  · exact hengine hs he
  · exact hengine (hturn op) he
  · exact hhost op _ t (hside _ rest _ (hturn op)) he

end Sys2Proof.Proofs

/-! The register window's invariant. -/

namespace Sys2Proof.Proofs

open Machine

/-- Every code is one of 60_exceptions.md R156, and none is 0. -/
theorem errorCode_range (e : ErrorKind) : (errorCode e).toNat ≤ 0x0C ∧ errorCode e ≠ 0 := by
  cases e <;> decide

/-- With nothing in flight the clause about the snapshot is empty. -/
theorem windowInv_of_idle {s : State} (hidle : s.inflight = none) (hctrl : s.regs.ctrl &&& ~~~ctrlMask = 0)
    (hcode : s.errcode.toNat ≤ 0x0C) (herr : s.err = true → s.errcode ≠ 0) : windowInv s :=
  ⟨hctrl, hcode, herr, by simp [hidle]⟩

theorem raiseError_keeps_windowInv {s : State} (b : Bool) (e : ErrorKind) (h : windowInv s) :
    windowInv (raiseError b e s) :=
  have ⟨hctrl, _⟩ := h
  windowInv_of_idle rfl hctrl (errorCode_range e).1 fun _ => (errorCode_range e).2

theorem exec_keeps_windowInv {i : Instr} {s t : State} (hs : windowInv s) (h : exec i s = .next t) : windowInv t := by
  rcases exec_ends h with ⟨-, e, rfl⟩ | ⟨n, u, hu, rfl⟩
  · exact raiseError_keeps_windowInv _ e hs
  · obtain ⟨hctrl, -⟩ := hs
    obtain ⟨hregs, -⟩ := hu.hostSide
    exact windowInv_of_idle rfl (by simpa [hregs] using hctrl) (by simp) (by simp)

theorem regWrite_keeps_windowInv {s : State} (off : Nat) (v : Word) (hidle : s.inflight = none) (hs : windowInv s) :
    windowInv (regWrite off v s) := by
  obtain ⟨hctrl, hcode, herr, -⟩ := hs
  rcases Laws.regWrite_cases off v s with h | h | ⟨ops, h, hops⟩ <;> rw [h]
  · exact ⟨hctrl, by simp, by simp, by simp⟩
  · exact windowInv_of_idle hidle hctrl hcode fun hack => herr (Bool.and_eq_true_iff.1 hack).1
  · refine windowInv_of_idle hidle ?_ hcode herr
    rcases hops with hc | hc
    · exact hc ▸ hctrl
    · change ops.ctrl &&& ~~~ctrlMask = 0
      rw [hc, BitVec.and_assoc, BitVec.and_not_self]
      exact BitVec.and_zero

theorem hostStep_keeps_windowInv {op : HostOp} {s t : State} (hs : windowInv s) (h : hostStep op s = .next t) :
    windowInv t := by
  rcases Laws.hostStep_cases h with ⟨w, off, -, h⟩ | ⟨w, off, v, -, h⟩ | ⟨-, rfl⟩ | ⟨-, rfl⟩
  · rcases Laws.hostRead_cases h with ⟨_, -, rfl⟩ | ⟨_, _, -, ⟨-, rfl⟩ | ⟨-, rfl⟩⟩ <;> exact hs
  · rcases Laws.hostWrite_cases h with ⟨-, rfl⟩ | ⟨hidle, r, -, rfl⟩ | ⟨-, _, _, -, rfl⟩
    · exact hs
    · exact regWrite_keeps_windowInv r v (by simpa [State.busy] using hidle) hs
    · exact hs
  · exact hs
  · exact windowInv_of_idle rfl (by simp) (by simp) (by simp)

/-- Settles O52: a command ends with nothing in flight, and the registers change only while nothing is in flight. -/
theorem stepKeepsTheWindowInvariant : Obligations.StepKeepsTheWindowInvariant := fun _ _ hs h =>
  step_preserves (fun _ _ _ h => h) (fun _ _ _ => exec_keeps_windowInv) (fun _ => raiseError_keeps_windowInv _ _)
    (fun _ _ _ => hostStep_keeps_windowInv) hs h

end Sys2Proof.Proofs

/-! The invariant of the block-cipher unit: only whole blocks go through the registers of an operation that goes on. -/

namespace Sys2Proof.Proofs

open Machine

/-- FB, PP and PCR have `b` bytes each. -/
def RegsSized (b : Nat) (r : OpRegs) : Prop := r.fb.length = b ∧ r.pp.length = b ∧ r.pcr.length = b

theorem encBlockCore_sized {e : Bytes → Bytes} {c : ModeCtx} {r : OpRegs} {x : Bytes} (he : ∀ y, (e y).length = c.b)
    (hr : RegsSized c.b r) (hx : x.length = c.b) : RegsSized c.b (encBlockCore e c r x).2 := by
  obtain ⟨hfb, hpp, hpcr⟩ := hr
  unfold encBlockCore
  split <;> simp [RegsSized, fillBlock, xorTrunc, truncBytes, *]

theorem decBlockCore_sized {e d : Bytes → Bytes} {c : ModeCtx} {r : OpRegs} {x : Bytes} (he : ∀ y, (e y).length = c.b)
    (hd : ∀ y, (d y).length = c.b) (hr : RegsSized c.b r) (hx : x.length = c.b) :
    RegsSized c.b (decBlockCore e d c r x).2 := by
  obtain ⟨hfb, hpp, hpcr⟩ := hr
  unfold decBlockCore
  split <;> simp [RegsSized, fillBlock, *]

theorem opBlock_sized {a : Alg} {key : Bytes} {c : ModeCtx} (dir : Bool) {r : OpRegs} {x : Bytes}
    (hb : c.b = a.blockSize) (hr : RegsSized c.b r) (hx : x.length = c.b) :
    RegsSized c.b (opBlock (scheduleOf a key) c dir r x).2 := by
  have he (y : Bytes) : (encryptBlock (scheduleOf a key) y).length = c.b := by rw [hb, Laws.encryptBlock_length]
  have hd (y : Bytes) : (decryptBlock (scheduleOf a key) y).length = c.b := by rw [hb, Laws.decryptBlock_length]
  cases dir
  · exact encBlockCore_sized he hr hx
  · exact decBlockCore_sized he hd hr hx

/-- What every block keeps, the blocks of a chunk keep. -/
theorem runBlocks_preserves {P : OpRegs → Prop} {f : OpRegs → Bytes → Bytes × OpRegs} {xs : List Bytes}
    (hf : ∀ r, ∀ x ∈ xs, P r → P (f r x).2) {r : OpRegs} (hr : P r) : P (runBlocks f r xs).2 := by
  induction xs generalizing r with
  | nil => exact hr
  | cons x xs ih =>
    refine ih (fun r y hy => hf r y (List.mem_cons_of_mem x hy)) ?_
    exact hf r x List.mem_cons_self hr

/-- A whole number of blocks is cut into whole blocks. -/
theorem length_of_mem_blocksOf {b : Nat} {data x : Bytes} (hb : 0 < b) (hwhole : data.length % b = 0)
    (hx : x ∈ blocksOf b data) : x.length = b := by
  obtain ⟨q, hq⟩ := Nat.dvd_of_mod_eq_zero hwhole
  simp only [blocksOf, List.mem_map, List.mem_range, hq, Nat.mul_add_div hb,
    Nat.div_eq_of_lt (Nat.sub_lt hb Nat.one_pos), Nat.add_zero] at hx
  obtain ⟨t, ht, rfl⟩ := hx
  have hfit : b * (t + 1) ≤ b * q := Nat.mul_le_mul_left b ht
  rw [List.length_take, List.length_drop, hq, Nat.mul_comm t b]
  rw [Nat.mul_succ] at hfit
  omega

theorem runChunk_sized {a : Alg} {key : Bytes} {c : ModeCtx} (dir : Bool) {r : OpRegs} {x : Bytes}
    (hb : c.b = a.blockSize) (hr : RegsSized c.b r) (hwhole : x.length % c.b = 0) :
    RegsSized c.b (runChunk (scheduleOf a key) c dir r x).2 := by
  have hpos : 0 < c.b := by rw [hb]; cases a <;> decide
  exact runBlocks_preserves (fun _ _ hx hr => opBlock_sized dir hb hr (length_of_mem_blocksOf hpos hwhole hx)) hr

theorem ivOrZero_length {s : State} (hiv : ∀ v, s.iv = some v → v.length = s.blockSize) :
    (ivOrZero s).length = s.blockSize := by
  unfold ivOrZero
  split
  · exact hiv _ ‹_›
  · exact Laws.zeroBytes_length _

/-- A chunk starts from registers of B bytes: those of BEGIN, or those of the operation under way (43_modes.md R123). -/
theorem startRegs_sized {s : State} {bf : Bool} (hs : cipherInv s) (hop : bf = true ∨ s.opact = true) :
    RegsSized s.blockSize (startRegs bf s) := by
  obtain ⟨-, -, hiv, hopact⟩ := hs
  cases bf with
  | true => exact ⟨ivOrZero_length hiv, ivOrZero_length hiv, ivOrZero_length hiv⟩
  | false => exact (hopact (hop.resolve_left Bool.false_ne_true)).2

/-- Between chunks the registers have B bytes: only the LAST chunk may end in a short block, and it ends the operation. -/
theorem chunk_sized {s : State} {lf bf : Bool} {x : Bytes} (dir : Bool) (hs : cipherInv s) (hctxv : s.ctxv = true)
    (hop : bf = true ∨ s.opact = true) (hwhole : lf = true ∨ x.length % s.blockSize = 0) (hlf : lf = false) :
    RegsSized s.blockSize (runChunk s.sched (modeCtx s) dir (startRegs bf s) x).2 := by
  have ⟨hkey, hctx, _⟩ := hs
  rw [(hkey (hctx hctxv).1).2]
  exact runChunk_sized dir rfl (startRegs_sized hs hop) (hwhole.resolve_left (by simp [hlf]))

/-- The invariant of a unit that is not keyed and holds no IV. -/
theorem cipherInv_of_unkeyed {s : State} (hkeyed : s.keyed = false) (hctxv : s.ctxv = false) (hiv : s.iv = none)
    (hopact : s.opact = false) : cipherInv s := by
  simp [cipherInv, hkeyed, hctxv, hiv, hopact]

theorem raiseError_keeps_cipherInv {s : State} (b : Bool) (e : ErrorKind) (hs : cipherInv s) :
    cipherInv (raiseError b e s) := by
  obtain ⟨hkey, hctx, hiv, hopact⟩ := hs
  exact ⟨hkey, hctx, hiv, fun h => hopact (Bool.and_eq_true_iff.1 h).1⟩

theorem Effect.keeps_cipherInv {i : Instr} {s u : State} (h : Effect i s u) (hs : cipherInv s) : cipherInv u := by
  have ⟨hkey, hctx, hiv, _⟩ := hs
  cases h with
  | buf | rc4 | participant | secret => exact hs
  | key hlegal => exact ⟨fun _ => ⟨hlegal, rfl⟩, by simp, by simp, by simp⟩
  | ctx pad le hkeyed hmode hiv => exact ⟨hkey, fun _ => ⟨hkeyed, hmode⟩, hiv, by simp⟩
  | chunk lf bf dir hi hctxv hop hwhole =>
    refine ⟨hkey, hctx, hiv, fun hopact => ⟨hctxv, chunk_sized dir hs hctxv hop hwhole ?_⟩⟩
    cases lf <;> simp_all
  | srst => exact cipherInv_of_unkeyed rfl rfl rfl rfl

theorem exec_keeps_cipherInv {i : Instr} {s t : State} (hs : cipherInv s) (h : exec i s = .next t) : cipherInv t := by
  rcases exec_ends h with ⟨-, e, rfl⟩ | ⟨n, u, hu, rfl⟩
  · exact raiseError_keeps_cipherInv _ e hs
  · exact hu.keeps_cipherInv hs

/-- A host step leaves the cipher unit alone, but for the reset input. -/
theorem hostStep_keeps_cipherInv {op : HostOp} {s t : State} (hs : cipherInv s) (h : hostStep op s = .next t) :
    cipherInv t := by
  rcases Laws.hostStep_cases h with ⟨w, off, -, h⟩ | ⟨w, off, v, -, h⟩ | ⟨-, rfl⟩ | ⟨-, rfl⟩
  · rcases Laws.hostRead_cases h with ⟨_, -, rfl⟩ | ⟨_, _, -, ⟨-, rfl⟩ | ⟨-, rfl⟩⟩ <;> exact hs
  · rcases Laws.hostWrite_cases h with ⟨-, rfl⟩ | ⟨-, r, -, rfl⟩ | ⟨-, _, _, -, rfl⟩
    · exact hs
    · rcases Laws.regWrite_cases r v s with h | h | ⟨_, h, -⟩ <;> rw [h] <;> exact hs
    · exact hs
  · exact hs
  · exact cipherInv_of_unkeyed rfl rfl rfl rfl

/-- Settles O53: KEY and CTX set what they make valid, and an operation that goes on has run whole blocks only. -/
theorem stepKeepsTheCipherInvariant : Obligations.StepKeepsTheCipherInvariant := fun _ _ hs h =>
  step_preserves (fun _ _ _ h => h) (fun _ _ _ => exec_keeps_cipherInv) (fun _ => raiseError_keeps_cipherInv _ _)
    (fun _ _ _ => hostStep_keeps_cipherInv) hs h

end Sys2Proof.Proofs

/-! Which host accesses the bus defines, and what a host access answers (20_memory.md R43 to R48, R56, R57). -/

namespace Sys2Proof.Proofs

open Machine

/-- The BUF window starts at a multiple of every width. -/
theorem bufWindow_add_mod {w : Width} {n : Nat} (hw : w.bytes? = some n) (a : Nat) :
    (Config.bufWindow + a) % n = a % n := by
  have hdvd : n ∣ Config.bufWindow := by cases w <;> cases hw <;> decide
  obtain ⟨q, hq⟩ := hdvd
  rw [hq, Nat.mul_add_mod]

/-- An aligned access inside the BUF window reaches BUF there. -/
theorem accessOf_buf {w : Width} {n a : Nat} (hw : w.bytes? = some n) (ha : a < Config.bufSize) (halign : a % n = 0) :
    accessOf w (Config.bufWindow + a) = .ok (.buf a n) := by
  have hreg : ¬ Config.bufWindow + a < Config.regWindow := by unfold Config.bufWindow Config.regWindow; omega
  have hbuf : Config.bufWindow ≤ Config.bufWindow + a ∧ Config.bufWindow + a < Config.bufWindow + Config.bufSize ∧
      Config.bufWindow + a < Config.hostSpace := by
    unfold Config.bufWindow Config.bufSize Config.hostSpace at *; omega
  have hmod : (Config.bufWindow + a) % n = 0 := (bufWindow_add_mod hw a).trans halign
  simp only [accessOf, hw, accessAt]
  rw [if_neg hreg, if_pos hbuf, if_pos hmod, Nat.add_sub_cancel_left]

/-- Only a 32-bit access moves four bytes. -/
theorem bytes?_eq_four {w : Width} (h : w.bytes? = some 4) : w = .w32 := by
  cases w <;> simp [Width.bytes?] at h ⊢

/-- What an access that the bus defines can be: 32 aligned bits of the register window, or aligned bytes of BUF. -/
theorem accessOf_ok_cases {w : Width} {off : Nat} {acc : Access} (h : accessOf w off = .ok acc) :
    (w = .w32 ∧ off < 0x100 ∧ off % 4 = 0 ∧ acc = .reg off) ∨
    ∃ n a, w.bytes? = some n ∧ off = Config.bufWindow + a ∧ a < Config.bufSize ∧ a % n = 0 ∧ acc = .buf a n := by
  unfold accessOf at h
  split at h
  · cases h
  next n hw =>
  unfold accessAt at h
  split at h
  next hreg =>
    split at h
    next hfit =>
      obtain ⟨rfl, halign⟩ := hfit
      cases h
      exact .inl ⟨bytes?_eq_four hw, hreg, halign, rfl⟩
    · cases h
  · split at h
    next hbuf =>
      obtain ⟨hlow, hhigh, -⟩ := hbuf
      obtain ⟨a, rfl⟩ := Nat.exists_eq_add_of_le hlow
      rw [bufWindow_add_mod hw, Nat.add_sub_cancel_left] at h
      split at h
      next halign =>
        cases h
        exact .inr ⟨n, a, hw, rfl, Nat.lt_of_add_lt_add_left hhigh, halign, rfl⟩
      · cases h
    · cases h

/-- The widths that move bytes are those of 20_memory.md R47, each aligned to itself. -/
theorem width_aligned_iff (w : Width) (a : Nat) :
    (∃ n, w.bytes? = some n ∧ a % n = 0) ↔ w = .w8 ∨ (w = .w16 ∧ a % 2 = 0) ∨ (w = .w32 ∧ a % 4 = 0) := by
  cases w <;> simp [Width.bytes?, Nat.mod_one]

/-- The defined accesses, by the window they lie in. -/
theorem definedAccess_iff (w : Width) (off : Nat) :
    definedAccess w off ↔
      (w = .w32 ∧ off < 0x100 ∧ off % 4 = 0) ∨
      ∃ n a, w.bytes? = some n ∧ off = Config.bufWindow + a ∧ a < Config.bufSize ∧ a % n = 0 := by
  unfold definedAccess
  rw [← width_aligned_iff]
  constructor
  · rintro (⟨hoff, hw, halign⟩ | ⟨hlow, hhigh, n, hw, halign⟩)
    · exact .inl ⟨hw, hoff, halign⟩
    · obtain ⟨a, rfl⟩ := Nat.exists_eq_add_of_le hlow
      rw [show 0x40000 = Config.bufWindow from rfl, bufWindow_add_mod hw] at halign
      exact .inr ⟨n, a, hw, rfl, by unfold Config.bufSize; omega, halign⟩
  · rintro (⟨hw, hoff, halign⟩ | ⟨n, a, hw, rfl, ha, halign⟩)
    · exact .inl ⟨hoff, hw, halign⟩
    · refine .inr ⟨Nat.le_add_right _ _, Nat.add_lt_add_left ha _, n, hw, ?_⟩
      rwa [bufWindow_add_mod hw]

/-- The bus defines exactly the accesses of 20_memory.md R47. -/
theorem definedAccess_iff_accessOf_ok (w : Width) (off : Nat) :
    definedAccess w off ↔ ∃ acc, accessOf w off = .ok acc := by
  rw [definedAccess_iff]
  constructor
  · rintro (⟨rfl, hoff, halign⟩ | ⟨n, a, hw, rfl, ha, halign⟩)
    · exact ⟨_, accessOf_register hoff halign⟩
    · exact ⟨_, accessOf_buf hw ha halign⟩
  · rintro ⟨acc, h⟩
    rcases accessOf_ok_cases h with ⟨hw, hoff, halign, -⟩ | ⟨n, a, hw, hoff, ha, halign, -⟩
    · exact .inl ⟨hw, hoff, halign⟩
    · exact .inr ⟨n, a, hw, hoff, ha, halign⟩

/-- Any other access is a bus error. -/
theorem accessOf_error_of_undefined {w : Width} {off : Nat} (h : ¬ definedAccess w off) :
    ∃ f, accessOf w off = .error f := by
  rw [definedAccess_iff_accessOf_ok] at h
  cases hacc : accessOf w off with
  | error f => exact ⟨f, rfl⟩
  | ok acc => exact absurd ⟨acc, hacc⟩ h

theorem hostRead_next {w : Width} {off : Nat} {acc : Access} (h : accessOf w off = .ok acc) (s : State) :
    ∃ t, hostRead w off s = .next t := by
  cases acc <;> simp [hostRead, h]

theorem hostWrite_next {w : Width} {off : Nat} {acc : Access} (h : accessOf w off = .ok acc) (v : Word) (s : State) :
    ∃ t, hostWrite w off v s = .next t := by
  cases acc <;> simp [hostWrite, h]

theorem hostRead_fault {w : Width} {off : Nat} {f : Fault} (h : accessOf w off = .error f) (s : State) :
    hostRead w off s = .fault f := by
  simp [hostRead, h]

theorem hostWrite_fault {w : Width} {off : Nat} {f : Fault} (h : accessOf w off = .error f) (v : Word) (s : State) :
    hostWrite w off v s = .fault f := by
  simp [hostWrite, h]

/-- Settles O9: the defined accesses are those the bus decodes, and an access answers or faults as the bus decodes it. -/
theorem busErrorsAreExactlyTheUndefinedAccesses : Obligations.BusErrorsAreExactlyTheUndefinedAccesses := by
  intro s w off v
  constructor
  · intro h
    obtain ⟨acc, hacc⟩ := (definedAccess_iff_accessOf_ok w off).1 h
    exact ⟨hostRead_next hacc s, hostWrite_next hacc v s⟩
  · intro h
    obtain ⟨f, hf⟩ := accessOf_error_of_undefined h
    exact ⟨⟨f, hostRead_fault hf s⟩, f, hostWrite_fault hf v s⟩

/-- While busy every write the bus defines is dropped (20_memory.md R56). -/
theorem hostWrite_busy {w : Width} {off : Nat} {acc : Access} {s : State} (hbusy : s.busy = true)
    (h : accessOf w off = .ok acc) (v : Word) : hostWrite w off v s = .next (setHaz s) := by
  cases acc <;> simp [hostWrite, h, hbusy]

/-- While busy a read of BUF is answered with a free value (20_memory.md R57). -/
theorem hostRead_buf_busy {w : Width} {off a n : Nat} {s : State} (hbusy : s.busy = true)
    (h : accessOf w off = .ok (.buf a n)) :
    hostRead w off s = .next (answer (replyOf n (Config.busyRead s.draws)) (setHaz { s with draws := s.draws + 1 })) := by
  simp [hostRead, h, hbusy]

/-- Settles O8: the busy port drops writes, and its reads are told apart by the window. -/
theorem busyWindowDropsWritesAndSetsHaz : Obligations.BusyWindowDropsWritesAndSetsHaz := by
  intro s w off v hbusy hdef
  obtain ⟨acc, hacc⟩ := (definedAccess_iff_accessOf_ok w off).1 hdef
  refine ⟨hostWrite_busy hbusy hacc v, ?_⟩
  rcases accessOf_ok_cases hacc with ⟨rfl, hoff, halign, -⟩ | ⟨n, a, -, rfl, -, -, rfl⟩
  · exact ⟨fun _ => hostRead_register hoff halign, fun hbuf => absurd (hbuf.trans_lt hoff) (by decide)⟩
  · refine ⟨fun hreg => ?_, fun _ => ⟨_, hostRead_buf_busy hbusy hacc⟩⟩
    exact absurd ((Nat.le_add_right Config.bufWindow a).trans_lt hreg) (by decide)

end Sys2Proof.Proofs

/-! The byte order of host accesses to BUF (20_memory.md R45). -/

namespace Sys2Proof.Proofs

open Machine

/-- Little-endian: a byte below the bits above it. -/
theorem ofNat_byte_add (w : Nat) (b : Byte) (k : Nat) :
    BitVec.ofNat (w + 8) (b.toNat + 256 * k) = BitVec.ofNat w k ++ b := by
  have hb : b.toNat < 2 ^ 8 := b.isLt
  have hlow : (b.toNat + 256 * k) % 2 ^ 8 = b.toNat := by omega
  have hhigh : (b.toNat + 256 * k) / 2 ^ 8 = k := by omega
  apply BitVec.eq_of_toNat_eq
  rw [BitVec.toNat_append, ← Nat.shiftLeft_add_eq_or_of_lt hb, BitVec.toNat_ofNat, BitVec.toNat_ofNat,
    Nat.shiftLeft_eq, Nat.pow_add, Nat.mul_comm (2 ^ w), Nat.mod_mul, hlow, hhigh, Nat.add_comm, Nat.mul_comm]

/-- The bytes of a word above bit `j`, lowest first. -/
theorem toLE_shiftRight (n : Nat) (v : Word) (j : Nat) :
    toLE n (v.toNat >>> j) = (List.range n).map fun k => v.extractLsb' (j + 8 * k) 8 := by
  induction n generalizing j with
  | zero => rfl
  | succ n ih =>
    have hnext : v.toNat >>> j / 256 = v.toNat >>> (j + 8) := by
      rw [Nat.shiftRight_add, Nat.shiftRight_eq_div_pow _ 8]
    rw [toLE, hnext, ih, List.range_succ_eq_map, List.map_cons, List.map_map]
    refine congrArg _ (List.map_congr_left fun k _ => ?_)
    rw [Function.comp_apply, Nat.mul_succ, Nat.add_assoc, Nat.add_comm 8]

theorem replyOf_bufValue_one (s : State) (a : Nat) : replyOf 1 (bufValue s a 1) = .b8 (bufByte s a) := by
  refine congrArg Reply.b8 ?_
  rw [bufValue, BitVec.setWidth_ofNat_of_le (by decide)]
  simp [bufRead, leNat]

theorem replyOf_bufValue_two (s : State) (a : Nat) :
    replyOf 2 (bufValue s a 2) = .b16 (bufByte s (a + 1) ++ bufByte s a) := by
  refine congrArg Reply.b16 ?_
  rw [bufValue, BitVec.setWidth_ofNat_of_le (by decide)]
  simp only [bufRead, leNat]
  rw [ofNat_byte_add 8]
  simp

theorem replyOf_bufValue_four (s : State) (a : Nat) :
    replyOf 4 (bufValue s a 4) =
      .b32 (bufByte s (a + 3) ++ bufByte s (a + 2) ++ bufByte s (a + 1) ++ bufByte s a) := by
  refine congrArg Reply.b32 ?_
  simp only [bufValue, bufRead, leNat]
  rw [ofNat_byte_add 24, ofNat_byte_add 16, ofNat_byte_add 8]
  simp

theorem hostRead_buf_idle {w : Width} {off a n : Nat} {s : State} (hidle : s.inflight = none)
    (h : accessOf w off = .ok (.buf a n)) : hostRead w off s = .next (answer (replyOf n (bufValue s a n)) s) := by
  simp [hostRead, h, State.busy, hidle]

theorem storedAt_bufWrite (s : State) (a : Nat) (v : Bytes) : storedAt s (bufWrite s a v) a v :=
  ⟨Laws.bufRead_bufWrite s a v, fun _ => Laws.bufByte_bufWrite_outside s⟩

/-- While not busy, a write of `n` bytes to BUF stores them lowest first, and changes BUF only. -/
theorem hostWrite_buf_idle {w : Width} {off a n : Nat} {s : State} (hidle : s.inflight = none)
    (h : accessOf w off = .ok (.buf a n)) (v : Word) :
    ∃ t, hostWrite w off v s = .next t ∧ t = { s with mem := t.mem } ∧
      storedAt s t a ((List.range n).map fun k => v.extractLsb' (0 + 8 * k) 8) := by
  refine ⟨bufWrite s a (toLE n v.toNat), by simp [hostWrite, h, State.busy, hidle], rfl, ?_⟩
  rw [← toLE_shiftRight, Nat.shiftRight_zero]
  exact storedAt_bufWrite ..

/-- Settles O13: each width is the access of its number of bytes. -/
theorem bufHostAccessesAreLittleEndian : Obligations.BufHostAccessesAreLittleEndian := by
  intro s a v hidle
  refine ⟨fun ha => ?_, fun ha halign => ?_, fun ha halign => ?_⟩
  · have hacc := accessOf_buf (w := .w8) rfl ha (Nat.mod_one a)
    refine ⟨?_, hostWrite_buf_idle hidle hacc v⟩
    rw [← replyOf_bufValue_one]
    exact hostRead_buf_idle hidle hacc
  · have hacc := accessOf_buf (w := .w16) rfl ha halign
    refine ⟨?_, hostWrite_buf_idle hidle hacc v⟩
    rw [← replyOf_bufValue_two]
    exact hostRead_buf_idle hidle hacc
  · have hacc := accessOf_buf (w := .w32) rfl ha halign
    refine ⟨?_, hostWrite_buf_idle hidle hacc v⟩
    rw [← replyOf_bufValue_four]
    exact hostRead_buf_idle hidle hacc

end Sys2Proof.Proofs

/-! Whose move it is, and how long a command stays in flight (00_scope.md R13, 20_memory.md R53, R55). -/

namespace Sys2Proof.Proofs

open Machine

theorem engineStep_decoded {s : State} {c : InFlight} {i : Instr} (hc : s.inflight = some c)
    (hi : decode c.word = .ok i) : engineStep s = exec i s := by
  simp [engineStep, hc, hi]

theorem step_of_no_access {s : State} (hhost : s.host = []) : step s = engineStep s := by
  simp [step, nextMove, hhost]

theorem step_of_pending {s : State} {op : HostOp} {rest : List HostOp} (hhost : s.host = op :: rest) :
    step s = if engineMoves op s then engineStep (afterTurn op s)
      else hostStep op { afterTurn op s with host := rest } := by
  unfold step nextMove
  split
  next hempty => rw [hhost] at hempty; cases hempty
  next hpending => rw [hhost] at hpending; cases hpending; rfl

/-- With nothing in flight the host moves, and no arbitration is counted. -/
theorem step_of_idle {s : State} {op : HostOp} {rest : List HostOp} (hidle : s.inflight = none)
    (hhost : s.host = op :: rest) : step s = hostStep op { s with host := rest } := by
  have hnotBusy : s.busy = false := by simp [State.busy, hidle]
  simp [step_of_pending hhost, engineMoves, afterTurn, hnotBusy]

/-- A pending wait lets the command in flight go first. -/
theorem step_of_wait {s : State} {rest : List HostOp} (hbusy : s.busy = true) (hhost : s.host = .wait :: rest) :
    step s = engineStep s := by
  simp [step_of_pending hhost, engineMoves, afterTurn, hbusy]

/-- With a command in flight and any other access pending, either agent may move, and the arbitration is counted. -/
theorem step_of_access {s : State} {op : HostOp} {rest : List HostOp} (hbusy : s.busy = true)
    (hhost : s.host = op :: rest) (hop : op ≠ .wait) :
    step s = engineStep { s with turns := s.turns + 1 } ∨
    step s = hostStep op { s with turns := s.turns + 1, host := rest } := by
  have hturn : afterTurn op s = { s with turns := s.turns + 1 } := by simp [afterTurn, hbusy, hop]
  rw [step_of_pending hhost, hturn]
  split
  · exact .inl rfl
  · exact .inr rfl

/-- Settles O4: the three cases of whose move it is, with the command in flight decoded. -/
theorem stepRunsTheCommandInFlight : Obligations.StepRunsTheCommandInFlight := by
  intro s c i hc hi
  have hbusy : s.busy = true := by simp [State.busy, hc]
  have hrun : engineStep s = exec i s := engineStep_decoded hc hi
  refine ⟨fun hhost => ?_, fun rest hhost => ?_, fun op rest hhost hop => ?_⟩
  · exact (step_of_no_access hhost).trans hrun
  · exact (step_of_wait hbusy hhost).trans hrun
  · exact (step_of_access hbusy hhost hop).imp_left fun h => h.trans (engineStep_decoded hc hi)

/-- Settles O7: with nothing in flight the host moves, and the write reaches CMD. -/
theorem cmdWriteIssuesWithSnapshot : Obligations.CmdWriteIssuesWithSnapshot := by
  intro s w rest hidle hhost
  have hnotBusy : State.busy { s with host := rest } = false := by simp [State.busy, hidle]
  calc
    step s = hostWrite .w32 0x008 w { s with host := rest } := step_of_idle hidle hhost
    _ = .next (issue w { s with host := rest }) := hostWrite_register w hnotBusy (by decide) rfl

/-- A host access answers a next state or meets a bus error; none is refused. -/
theorem hostStep_answers (op : HostOp) (s : State) :
    (∃ t, hostStep op s = .next t) ∨ ∃ f, hostStep op s = .fault f := by
  cases op with
  | read w off =>
    cases hacc : accessOf w off with
    | error f => exact .inr ⟨f, hostRead_fault hacc s⟩
    | ok acc => exact .inl (hostRead_next hacc s)
  | write w off v =>
    cases hacc : accessOf w off with
    | error f => exact .inr ⟨f, hostWrite_fault hacc v s⟩
    | ok acc => exact .inl (hostWrite_next hacc v s)
  | wait => exact .inl ⟨s, rfl⟩
  | reset => exact .inl ⟨hardReset s, rfl⟩

theorem engineStep_next (s : State) : ∃ t, engineStep s = .next t := by
  unfold engineStep
  split
  · exact ⟨_, rfl⟩
  · split
    · exact Laws.exec_next ..
    · exact ⟨_, rfl⟩

theorem step_answers (s : State) : (∃ t, step s = .next t) ∨ ∃ f, step s = .fault f := by
  unfold step nextMove
  split
  · exact .inl (engineStep_next s)
  · split
    · exact .inl (engineStep_next _)
    · exact hostStep_answers ..

/-- A step ends the command in flight, or it takes an access off the host's list. -/
theorem step_over_or_host_shorter {s t : State} (h : step s = .next t) :
    t.inflight = none ∨ t.host.length < s.host.length := by
  rcases Laws.step_cases h with ⟨-, he⟩ | ⟨op, rest, -, -, he⟩ | ⟨op, rest, hhost, he⟩
  · exact .inl (Laws.engineStep_over he).2
  · exact .inl (Laws.engineStep_over he).2
  · rw [Laws.hostStep_host he, hhost]
    exact .inr (Nat.lt_succ_self _)

/-- After `k` steps a bus error has stopped the host, or nothing is in flight. -/
def OverAfter (k : Nat) (s : State) : Prop :=
  (∃ f, core.run k s = .fault f) ∨ ∃ t : State, core.run k s = .next t ∧ t.inflight = none

theorem overAfter_zero {s : State} (h : s.inflight = none) : OverAfter 0 s := .inr ⟨s, rfl, h⟩

theorem overAfter_one_of_fault {s : State} {f : Fault} (h : step s = .fault f) : OverAfter 1 s :=
  .inl ⟨f, by rw [Laws.run_succ, h]; rfl⟩

theorem overAfter_succ {k : Nat} {s t : State} (h : step s = .next t) (ht : OverAfter k t) : OverAfter (k + 1) s := by
  have hrun : (core.run (k + 1) s : Host.Outcome State Fault Refusal) = core.run k t := by rw [Laws.run_succ, h]; rfl
  unfold OverAfter
  exact hrun ▸ ht

theorem exists_overAfter (n : Nat) (s : State) (hn : s.host.length ≤ n) : ∃ k, k ≤ n + 1 ∧ OverAfter k s := by
  induction n generalizing s with
  | zero =>
    rcases step_answers s with ⟨t, ht⟩ | ⟨f, hf⟩
    · have hover : t.inflight = none := (step_over_or_host_shorter ht).resolve_right (by omega)
      exact ⟨1, le_rfl, overAfter_succ ht (overAfter_zero hover)⟩
    · exact ⟨1, le_rfl, overAfter_one_of_fault hf⟩
  | succ n ih =>
    rcases step_answers s with ⟨t, ht⟩ | ⟨f, hf⟩
    · rcases step_over_or_host_shorter ht with hover | hshort
      · exact ⟨1, by omega, overAfter_succ ht (overAfter_zero hover)⟩
      · obtain ⟨k, hk, hrun⟩ := ih t (by omega)
        exact ⟨k + 1, by omega, overAfter_succ ht hrun⟩
    · exact ⟨1, by omega, overAfter_one_of_fault hf⟩

/-- Settles O14: by induction on how many accesses are pending. -/
theorem inFlightCommandIsOverInBoundedSteps : Obligations.InFlightCommandIsOverInBoundedSteps := fun s _ =>
  exists_overAfter s.host.length s le_rfl

/-- Settles O16: a raised error and a completion both end the command, each with its own code. -/
theorem everyCommandCompletes : Obligations.EveryCommandCompletes := by
  intro i s
  obtain ⟨t, ht⟩ := Laws.exec_next i s
  refine ⟨t, ht, ?_⟩
  rcases exec_ends ht with ⟨-, e, rfl⟩ | ⟨n, u, -, rfl⟩
  · obtain ⟨hle, hne⟩ := errorCode_range e
    exact ⟨rfl, rfl, iff_of_true rfl hne, hle, fun _ => rfl⟩
  · simp

end Sys2Proof.Proofs

/-! How long a chunk's output is: never longer than its input (43_modes.md R134, R135). -/

namespace Sys2Proof.Proofs

open Machine

theorem xorTrunc_length_le (x k : Bytes) : (xorTrunc x k).length ≤ x.length := by simp [xorTrunc]

/-- A stream mode masks its input; a block mode gives a whole block, so it must be given one. -/
theorem encBlockCore_length_le {e : Bytes → Bytes} {c : ModeCtx} {r : OpRegs} {x : Bytes} (he : ∀ y, (e y).length = c.b)
    (hx : c.mode.isBlock = true → x.length = c.b) : (encBlockCore e c r x).1.length ≤ x.length := by
  unfold encBlockCore
  cases hm : c.mode with
  | cfb | ofb | ctr => exact xorTrunc_length_le ..
  | ecb | cbc | pcbc | randomDelta => exact (he _).trans_le (hx (by rw [hm]; rfl)).ge

theorem decBlockCore_length_le {e d : Bytes → Bytes} {c : ModeCtx} {r : OpRegs} {x : Bytes}
    (hd : ∀ y, (d y).length = c.b) (hx : c.mode.isBlock = true → x.length = c.b) :
    (decBlockCore e d c r x).1.length ≤ x.length := by
  have hmasked (k : Bytes) (hm : c.mode.isBlock = true) : (xorBytes (d x) k).length ≤ x.length := by
    rw [Laws.xorBytes_length, hd, hx hm]
    exact Nat.min_le_left ..
  unfold decBlockCore
  cases hm : c.mode with
  | cfb | ofb | ctr => exact xorTrunc_length_le ..
  | ecb => exact (hd _).trans_le (hx (by rw [hm]; rfl)).ge
  | cbc | pcbc | randomDelta => exact hmasked _ (by rw [hm]; rfl)

theorem opBlock_length_le {a : Alg} {key : Bytes} {c : ModeCtx} (dir : Bool) {r : OpRegs} {x : Bytes}
    (hb : c.b = a.blockSize) (hx : c.mode.isBlock = true → x.length = c.b) :
    (opBlock (scheduleOf a key) c dir r x).1.length ≤ x.length := by
  cases dir
  · exact encBlockCore_length_le (fun y => by rw [hb, Laws.encryptBlock_length]) hx
  · exact decBlockCore_length_le (fun y => by rw [hb, Laws.decryptBlock_length]) hx

/-- What holds of every block's output length holds of the whole. -/
theorem runBlocks_length_le {f : OpRegs → Bytes → Bytes × OpRegs} {xs : List Bytes}
    (hf : ∀ r, ∀ x ∈ xs, (f r x).1.length ≤ x.length) (r : OpRegs) :
    (runBlocks f r xs).1.length ≤ xs.flatten.length := by
  induction xs generalizing r with
  | nil => exact le_rfl
  | cons x xs ih =>
    have htail := ih (fun r y hy => hf r y (List.mem_cons_of_mem x hy)) (f r x).2
    simpa [Laws.runBlocks_cons] using Nat.add_le_add (hf r x List.mem_cons_self) htail

/-- The first `k` blocks are the first `k * b` bytes. -/
theorem flatten_blocks (b k : Nat) (s : Bytes) :
    ((List.range k).map fun t => (s.drop (t * b)).take b).flatten = s.take (k * b) := by
  induction k with
  | zero => simp
  | succ k ih => simp [List.range_succ, ih, Nat.succ_mul, List.take_add]

/-- The blocks of a string make up the string. -/
theorem flatten_blocksOf {b : Nat} (hb : 0 < b) (s : Bytes) : (blocksOf b s).flatten = s := by
  have hcover : s.length ≤ (s.length + (b - 1)) / b * b := by
    have := Nat.div_add_mod' (s.length + (b - 1)) b
    have := Nat.mod_lt (s.length + (b - 1)) hb
    omega
  rw [blocksOf, flatten_blocks, List.take_of_length_le hcover]

theorem runChunk_length_le {a : Alg} {key : Bytes} {c : ModeCtx} (dir : Bool) (r : OpRegs) {x : Bytes}
    (hb : c.b = a.blockSize) (hwhole : c.mode.isBlock = true → x.length % c.b = 0) :
    (runChunk (scheduleOf a key) c dir r x).1.length ≤ x.length := by
  have hpos : 0 < c.b := by rw [hb]; cases a <;> decide
  calc
    (runChunk (scheduleOf a key) c dir r x).1.length ≤ (blocksOf c.b x).flatten.length :=
      runBlocks_length_le
        (fun _ _ hy => opBlock_length_le dir hb fun hm => length_of_mem_blocksOf hpos (hwhole hm) hy) r
    _ = x.length := by rw [flatten_blocksOf hpos]

theorem blockSize_pos (s : State) : 0 < s.blockSize := by
  unfold State.blockSize
  cases s.lalg <;> decide

/-- Every scheme pads to whole blocks (42_padding.md R107). -/
theorem add_padLen_mod (sch : Scheme) (n : Nat) {bs : Nat} (hbs : 0 < bs) : (n + padLen sch n bs) % bs = 0 := by
  have hfill : (n + (bs - n % bs)) % bs = 0 := by
    have := Nat.div_add_mod n bs
    have hlt := Nat.mod_lt n hbs
    rw [show n + (bs - n % bs) = bs * (n / bs + 1) by rw [Nat.mul_succ]; omega]
    exact Nat.mul_mod_right bs _
  cases sch with
  | zeros =>
    by_cases hn : n % bs = 0
    · simp [padLen, hn]
    · simpa [padLen, hn] using hfill
  | pkcs7 | ansix923 | iso10126 => exact hfill

theorem encInput_length (lf : Bool) (s : State) : (encInput lf s).length = s.operands.lenN + encPadLen lf s := by
  unfold encInput encPadLen encDraws
  split
  · rw [Laws.padBytes_length _ _ _ _ (blockSize_pos s) (by simp), Laws.bufRead_length]
  · simp

/-- In a block mode ENC encrypts whole blocks: the LAST chunk is padded, and any other has a whole number of them. -/
theorem encInput_whole_of_block {lf : Bool} {s : State} (h : lf = true ∨ s.operands.lenN % s.blockSize = 0)
    (hm : s.lmode.isBlock = true) : (encInput lf s).length % s.blockSize = 0 := by
  rw [encInput_length]
  cases lf with
  | true => simpa [encPadLen, hm] using add_padLen_mod s.lpad s.operands.lenN (blockSize_pos s)
  | false => simpa [encPadLen] using h

theorem decOutput_length_le (lf : Bool) (s : State) (y : Bytes) : (decOutput lf s y).length ≤ y.length := by
  unfold decOutput
  split
  · exact Laws.unpadBytes_length_le ..
  · exact le_rfl

/-- Under the cipher invariant the schedule is that of a key, so E and D give blocks of B bytes. -/
theorem chunk_length_le {s : State} (hs : cipherInv s) (hctxv : s.ctxv = true) (dir : Bool) (r : OpRegs) {x : Bytes}
    (hwhole : s.lmode.isBlock = true → x.length % s.blockSize = 0) :
    (runChunk s.sched (modeCtx s) dir r x).1.length ≤ x.length := by
  obtain ⟨hkey, hctx, -⟩ := hs
  rw [(hkey (hctx hctxv).1).2]
  exact runChunk_length_le dir r rfl hwhole

end Sys2Proof.Proofs

/-! The invariant of BUF: every store lies inside it (20_memory.md R44, R50). -/

namespace Sys2Proof.Proofs

open Machine

/-- From `s` to `t` BUF is left alone, or one string is stored inside it. -/
def StoresInBuf (s t : State) : Prop :=
  t.mem = s.mem ∨ ∃ a v, a + v.length ≤ Config.bufSize ∧ t.mem = memWrite s.mem a v

theorem StoresInBuf.keeps_bufInv {s t : State} (h : StoresInBuf s t) (hs : bufInv s) : bufInv t := by
  obtain ⟨hwf, hin⟩ := hs
  unfold bufInv
  rcases h with h | ⟨a, v, hfit, h⟩ <;> rw [h]
  · exact ⟨hwf, hin⟩
  · exact ⟨Laws.memWrite_wf hwf a v, Laws.memWrite_inside hin hfit⟩

/-- A store no longer than the range checked (20_memory.md R50). -/
theorem StoresInBuf.checked {s u : State} {a n : Nat} {v : Bytes} (hcheck : inBuf a n = true) (hlen : v.length ≤ n)
    (hu : u.mem = s.mem) (k : Nat) : StoresInBuf s (complete k (bufWrite u a v)) := by
  have hfit : a + n ≤ Config.bufSize := of_decide_eq_true hcheck
  exact .inr ⟨a, v, (Nat.add_le_add_left hlen a).trans hfit, congrArg (memWrite · a v) hu⟩

theorem StoresInBuf.newParticipant {s : State} {plen : Nat} (hcheck : inBuf s.operands.dstN plen = true) (p g : Nat)
    (x : BitVec 256) : StoresInBuf s (newParticipant p g plen x (afterExponentDraw s)) :=
  .checked hcheck (Laws.toBE_length ..).le rfl plen

theorem truncBytes_length_le (v : Bytes) (n : Nat) : (truncBytes v n).length ≤ n := List.length_take_le ..

theorem oneBlock_storesInBuf {f : KeySchedule → Bytes → Bytes} {s : State} (hs : cipherInv s)
    (hf : ∀ a key x, (f (scheduleOf a key) x).length = a.blockSize) : StoresInBuf s (oneBlock f s) := by
  obtain ⟨hkey, -⟩ := hs
  rcases Laws.oneBlock_cases f s with ⟨e, h⟩ | ⟨hkeyed, -, -, hdst, h⟩ <;> rw [h]
  · exact .inl rfl
  · refine .checked hdst ?_ rfl _
    rw [(hkey hkeyed).2, hf]
    exact le_rfl

/-- What every command does to BUF. -/
theorem exec_storesInBuf {i : Instr} {s t : State} (hs : cipherInv s) (h : exec i s = .next t) : StoresInBuf s t := by
  cases i with
  | nop | srst => cases h; exact .inl rfl
  | key => rcases Laws.execKey_cases h with ⟨e, rfl⟩ | ⟨_, -, -, -, rfl⟩ <;> exact .inl rfl
  | ctx => rcases Laws.execCtx_cases h with ⟨e, rfl⟩ | ⟨_, _, -, -, -, -, rfl⟩ <;> exact .inl rfl
  | rc4key => rcases Laws.execRc4key_cases h with ⟨e, rfl⟩ | ⟨-, -, -, rfl⟩ <;> exact .inl rfl
  | encb => cases h; exact oneBlock_storesInBuf hs Laws.encryptBlock_length
  | decb => cases h; exact oneBlock_storesInBuf hs Laws.decryptBlock_length
  | enc lf bf =>
    rcases Laws.execEnc_cases h with ⟨e, rfl⟩ | ⟨hctxv, -, hwhole, -, hdst, rfl⟩
    · exact .inl rfl
    · refine .checked hdst ?_ rfl _
      rw [← encInput_length]
      exact chunk_length_le hs hctxv false _ (encInput_whole_of_block hwhole)
  | dec lf bf =>
    rcases Laws.execDec_cases h with ⟨e, rfl⟩ | ⟨hctxv, -, hwhole, -, hdst, rfl⟩
    · exact .inl rfl
    · refine .checked hdst ((decOutput_length_le ..).trans ?_) rfl _
      refine (chunk_length_le hs hctxv true _ fun hm => ?_).trans (Laws.bufRead_length ..).le
      rw [Laws.bufRead_length]
      exact hwhole.resolve_left (by simp [hm])
  | pad bs =>
    rcases Laws.execPad_cases h with ⟨e, rfl⟩ | ⟨sch, -, hbs, -, hdst, rfl⟩
    · exact .inl rfl
    · refine .checked hdst (le_of_eq ?_) rfl _
      rw [Laws.padBytes_length _ _ _ _ (Nat.pos_of_ne_zero hbs) (by simp), Laws.bufRead_length]
  | unpad bs =>
    rcases Laws.execUnpad_cases h with ⟨e, rfl⟩ | ⟨sch, -, -, -, hdst, rfl⟩
    · exact .inl rfl
    · exact .checked hdst ((Laws.unpadBytes_length_le ..).trans (Laws.bufRead_length ..).le) rfl _
  | rc4 =>
    rcases Laws.execRc4_cases h with ⟨e, rfl⟩ | ⟨-, -, hdst, rfl⟩
    · exact .inl rfl
    · exact .checked hdst (by simp) rfl _
  | dhi =>
    rcases Laws.execDhi_cases h with ⟨e, rfl⟩ | ⟨hdst, rfl⟩
    · exact .inl rfl
    · exact .newParticipant hdst ..
  | dhr =>
    rcases Laws.execDhr_cases h with ⟨e, rfl⟩ | ⟨-, -, -, -, -, hdst, -, rfl⟩
    · exact .inl rfl
    · exact .newParticipant hdst ..
  | dhs =>
    rcases Laws.execDhs_cases h with ⟨e, rfl⟩ | ⟨-, -, -, hdst, rfl⟩
    · exact .inl rfl
    · exact .checked hdst (Laws.toBE_length ..).le rfl _
  | dhk =>
    rcases Laws.execDhk_cases h with ⟨e, rfl⟩ | ⟨-, -, hdst, rfl⟩
    · exact .inl rfl
    · exact .checked hdst (truncBytes_length_le ..) rfl _

/-- A range of a width's bytes that is aligned to them does not cross the end of BUF. -/
theorem aligned_inside {w : Width} {n a : Nat} (hw : w.bytes? = some n) (ha : a < Config.bufSize) (halign : a % n = 0) :
    a + n ≤ Config.bufSize := by
  unfold Config.bufSize at *
  cases w <;> cases hw <;> omega

theorem hostWrite_storesInBuf {w : Width} {off : Nat} {v : Word} {s t : State} (h : hostWrite w off v s = .next t) :
    StoresInBuf s t := by
  rcases Laws.hostWrite_cases h with ⟨-, rfl⟩ | ⟨-, r, -, rfl⟩ | ⟨-, a, n, hacc, rfl⟩
  · exact .inl rfl
  · rcases Laws.regWrite_cases r v s with h | h | ⟨_, h, -⟩ <;> rw [h] <;> exact .inl rfl
  · rcases accessOf_ok_cases hacc with ⟨-, -, -, hreg⟩ | ⟨_, _, hw, -, ha, halign, hbuf⟩
    · cases hreg
    · cases hbuf
      exact .inr ⟨a, _, by simpa using aligned_inside hw ha halign, rfl⟩

theorem hostStep_keeps_bufInv {op : HostOp} {s t : State} (hs : bufInv s) (h : hostStep op s = .next t) : bufInv t := by
  rcases Laws.hostStep_cases h with ⟨w, off, -, h⟩ | ⟨w, off, v, -, h⟩ | ⟨-, rfl⟩ | ⟨-, rfl⟩
  · rcases Laws.hostRead_cases h with ⟨_, -, rfl⟩ | ⟨_, _, -, ⟨-, rfl⟩ | ⟨-, rfl⟩⟩ <;> exact hs
  · exact (hostWrite_storesInBuf h).keeps_bufInv hs
  · exact hs
  · exact ⟨rfl, List.forall_mem_nil _⟩

/-- Settles O55: with the cipher invariant, which keeps the block functions' output to the length checked, every step stores
inside BUF or not at all, and the reset input empties the list. -/
theorem stepKeepsBufCanonical : Obligations.StepKeepsBufCanonical := by
  intro s t hcipher hbuf h
  have hboth : cipherInv t ∧ bufInv t :=
    step_preserves (P := fun s => cipherInv s ∧ bufInv s) (fun _ _ _ h => h)
      (fun _ _ _ ⟨hc, hb⟩ h => ⟨exec_keeps_cipherInv hc h, (exec_storesInBuf hc h).keeps_bufInv hb⟩)
      (fun _ ⟨hc, hb⟩ => ⟨raiseError_keeps_cipherInv _ _ hc, hb⟩)
      (fun _ _ _ ⟨hc, hb⟩ h => ⟨hostStep_keeps_cipherInv hc h, hostStep_keeps_bufInv hb h⟩) ⟨hcipher, hbuf⟩ h
  exact hboth.2

end Sys2Proof.Proofs

/-! Command words: decoding and encoding are inverse to each other, and the legal words are the encoded commands
(30_encoding.md R66 to R69). -/

namespace Sys2Proof.Proofs

open Machine

/-! The fields of an encoded word -/

@[simp] theorem opField_encodePlain (op : Byte) : opField (encodePlain op) = op := BitVec.extractLsb'_append_eq_right

@[simp] theorem opField_encodeFlagged (op : Byte) (lf bf : Bool) : opField (encodeFlagged op lf bf) = op :=
  BitVec.extractLsb'_append_eq_right

@[simp] theorem opField_encodeSized (op : Byte) (bs : Nat) : opField (encodeSized op bs) = op :=
  BitVec.extractLsb'_append_eq_right

@[simp] theorem decodePlain_encodePlain (op : Byte) (i : Instr) : decodePlain (encodePlain op) i = .ok i :=
  if_pos BitVec.extractLsb'_append_eq_left

@[simp] theorem lastField_encodeFlagged (op : Byte) (lf bf : Bool) : lastField (encodeFlagged op lf bf) = lf := by
  simp only [lastField, encodeFlagged, BitVec.getLsbD_append]
  simp

@[simp] theorem beginField_encodeFlagged (op : Byte) (lf bf : Bool) : beginField (encodeFlagged op lf bf) = bf := by
  simp only [beginField, encodeFlagged, BitVec.getLsbD_append]
  simp

@[simp] theorem decodeFlagged_encodeFlagged (op : Byte) (lf bf : Bool) (mk : Bool → Bool → Instr) :
    decodeFlagged (encodeFlagged op lf bf) mk = .ok (mk lf bf) := by
  have hreserved : (encodeFlagged op lf bf).extractLsb' 10 22 = 0#22 :=
    calc
      _ = (0#22 ++ BitVec.ofBool bf ++ BitVec.ofBool lf).extractLsb' 2 22 :=
        BitVec.extractLsb'_append_eq_of_le (by decide)
      _ = (0#22 ++ BitVec.ofBool bf).extractLsb' 1 22 := BitVec.extractLsb'_append_eq_of_le (by decide)
      _ = 0#22 := BitVec.extractLsb'_append_eq_left
  simp [decodeFlagged, hreserved]

theorem bsField_encodeSized (op : Byte) (bs : Nat) : bsField (encodeSized op bs) = bs % 256 := by
  have hbs : (encodeSized op bs).extractLsb' 16 8 = BitVec.ofNat 8 bs :=
    calc
      _ = (0#8 ++ BitVec.ofNat 8 bs ++ 0#8).extractLsb' 8 8 := BitVec.extractLsb'_append_eq_of_le (by decide)
      _ = (0#8 ++ BitVec.ofNat 8 bs).extractLsb' 0 8 := BitVec.extractLsb'_append_eq_of_le (by decide)
      _ = BitVec.ofNat 8 bs := BitVec.extractLsb'_append_eq_right
  rw [bsField, hbs, BitVec.toNat_ofNat]

theorem decodeSized_encodeSized (op : Byte) {bs : Nat} (hbs : bs < 256) (mk : Nat → Instr) :
    decodeSized (encodeSized op bs) mk = .ok (mk bs) := by
  have hlow : (encodeSized op bs).extractLsb' 8 8 = 0#8 :=
    (BitVec.extractLsb'_append_eq_of_le (by decide)).trans BitVec.extractLsb'_append_eq_right
  have hhigh : (encodeSized op bs).extractLsb' 24 8 = 0#8 :=
    calc
      _ = (0#8 ++ BitVec.ofNat 8 bs ++ 0#8).extractLsb' 16 8 := BitVec.extractLsb'_append_eq_of_le (by decide)
      _ = (0#8 ++ BitVec.ofNat 8 bs).extractLsb' 8 8 := BitVec.extractLsb'_append_eq_of_le (by decide)
      _ = 0#8 := BitVec.extractLsb'_append_eq_left
  rw [decodeSized, if_pos ⟨hlow, hhigh⟩, bsField_encodeSized, Nat.mod_eq_of_lt hbs]

/-- The encoder's word of a well-formed command is decoded to that command (R66, R68). -/
theorem decode_encode {i : Instr} (hi : i.wellFormed = true) : decode (encode i) = .ok i := by
  cases i with
  | enc lf bf => simp [encode, decode]
  | dec lf bf => simp [encode, decode]
  | pad bs => simp [encode, decode, decodeSized_encodeSized _ (of_decide_eq_true hi)]
  | unpad bs => simp [encode, decode, decodeSized_encodeSized _ (of_decide_eq_true hi)]
  | _ => simp [encode, decode]

/-- Settles O1: the decoder reads each field back from where the encoder put it. -/
theorem decodeOfEncodeIsTheCommand : Obligations.DecodeOfEncodeIsTheCommand := fun _ => decode_encode

/-! A word is made up of its fields -/

theorem encodePlain_fields {w : Word} (h : w.extractLsb' 8 24 = 0#24) : encodePlain (opField w) = w := by
  rw [encodePlain, ← h]
  exact BitVec.extractLsb'_append_extractLsb'

theorem ofBool_getLsbD (w : Word) (k : Nat) : BitVec.ofBool (w.getLsbD k) = w.extractLsb' k 1 := by
  ext i hi
  obtain rfl : i = 0 := by omega
  simp

/-- Neighbouring fields make one. -/
theorem field_append_field (w : Word) (k n m : Nat) :
    w.extractLsb' (k + n) m ++ w.extractLsb' k n = w.extractLsb' k (m + n) :=
  BitVec.extractLsb'_append_extractLsb'_eq_extractLsb' rfl

theorem encodeFlagged_fields {w : Word} (h : w.extractLsb' 10 22 = 0#22) :
    encodeFlagged (opField w) (lastField w) (beginField w) = w :=
  calc
    encodeFlagged (opField w) (lastField w) (beginField w)
      = w.extractLsb' 10 22 ++ w.extractLsb' 9 1 ++ w.extractLsb' 8 1 ++ w.extractLsb' 0 8 := by
      rw [encodeFlagged, lastField, beginField, ofBool_getLsbD, ofBool_getLsbD, h, opField]
    _ = w.extractLsb' 8 24 ++ w.extractLsb' 0 8 := by
      rw [field_append_field w 9 1 22, field_append_field w 8 1 23]
    _ = w := BitVec.extractLsb'_append_extractLsb'

theorem encodeSized_fields {w : Word} (hlow : w.extractLsb' 8 8 = 0#8) (hhigh : w.extractLsb' 24 8 = 0#8) :
    encodeSized (opField w) (bsField w) = w :=
  calc
    encodeSized (opField w) (bsField w)
      = w.extractLsb' 24 8 ++ w.extractLsb' 16 8 ++ w.extractLsb' 8 8 ++ w.extractLsb' 0 8 := by
      rw [encodeSized, bsField, BitVec.ofNat_toNat, BitVec.setWidth_eq, hlow, hhigh, opField]
    _ = w.extractLsb' 8 24 ++ w.extractLsb' 0 8 := by
      rw [field_append_field w 16 8 8, field_append_field w 8 8 16]
    _ = w := BitVec.extractLsb'_append_extractLsb'

/-- The BS bits as the opcode map numbers them: bits 23..16 (R66). -/
theorem bsField_eq (w : Word) : bsField w = w.toNat / 2 ^ 16 % 256 := by
  rw [bsField, BitVec.extractLsb'_toNat, Nat.shiftRight_eq_div_pow]

/-! A word that decodes is the encoder's word of its command -/

section
variable {w : Word} {op : Byte} {i : Instr} (hop : (opField w).toNat = op.toNat)
include hop

theorem encode_of_decodePlain {j : Instr} (hj : encode j = encodePlain op) (h : decodePlain w j = .ok i) :
    encode i = w := by
  unfold decodePlain at h
  split at h <;> cases h
  next hreserved => rw [hj, ← BitVec.eq_of_toNat_eq hop, encodePlain_fields hreserved]

theorem encode_of_decodeFlagged {mk : Bool → Bool → Instr}
    (hmk : ∀ lf bf, encode (mk lf bf) = encodeFlagged op lf bf) (h : decodeFlagged w mk = .ok i) : encode i = w := by
  unfold decodeFlagged at h
  split at h <;> cases h
  next hreserved => rw [hmk, ← BitVec.eq_of_toNat_eq hop, encodeFlagged_fields hreserved]

theorem encode_of_decodeSized {mk : Nat → Instr} (hmk : ∀ bs, encode (mk bs) = encodeSized op bs)
    (h : decodeSized w mk = .ok i) : encode i = w := by
  unfold decodeSized at h
  split at h <;> cases h
  next hreserved => rw [hmk, ← BitVec.eq_of_toNat_eq hop, encodeSized_fields hreserved.1 hreserved.2]

end

/-- No two words decode to the same command: the command's word is the only one (R68). -/
theorem encode_of_decode {w : Word} {i : Instr} (h : decode w = .ok i) : encode i = w := by
  unfold decode at h
  split at h
  next hop => exact encode_of_decodePlain (op := 0x00) hop rfl h
  next hop => exact encode_of_decodePlain (op := 0x01) hop rfl h
  next hop => exact encode_of_decodePlain (op := 0x02) hop rfl h
  next hop => exact encode_of_decodePlain (op := 0x03) hop rfl h
  next hop => exact encode_of_decodePlain (op := 0x04) hop rfl h
  next hop => exact encode_of_decodeFlagged (op := 0x05) hop (fun _ _ => rfl) h
  next hop => exact encode_of_decodeFlagged (op := 0x06) hop (fun _ _ => rfl) h
  next hop => exact encode_of_decodeSized (op := 0x07) hop (fun _ => rfl) h
  next hop => exact encode_of_decodeSized (op := 0x08) hop (fun _ => rfl) h
  next hop => exact encode_of_decodePlain (op := 0x09) hop rfl h
  next hop => exact encode_of_decodePlain (op := 0x0A) hop rfl h
  next hop => exact encode_of_decodePlain (op := 0x0B) hop rfl h
  next hop => exact encode_of_decodePlain (op := 0x0C) hop rfl h
  next hop => exact encode_of_decodePlain (op := 0x0D) hop rfl h
  next hop => exact encode_of_decodePlain (op := 0x0E) hop rfl h
  next hop => exact encode_of_decodePlain (op := 0x0F) hop rfl h
  next => cases h

/-! The rows of the opcode map -/

/-- A field inside a row's mask is the field of the row's match value. -/
theorem extractLsb'_of_masked {w mask row : Word} {k n : Nat} (h : w &&& mask = row)
    (hmask : mask.extractLsb' k n = BitVec.allOnes n) : w.extractLsb' k n = row.extractLsb' k n := by
  rw [← h, BitVec.extractLsb'_and, hmask, BitVec.and_allOnes]

/-- A word of a row with L and B is the encoder's (R68). -/
theorem encodeFlagged_of_masked {w row : Word} (h : w &&& 0xFFFFFCFF = row) (hrow : row.extractLsb' 10 22 = 0#22) :
    encodeFlagged (opField row) (w.getLsbD 8) (w.getLsbD 9) = w := by
  have hop : opField w = opField row := extractLsb'_of_masked h (by decide)
  rw [← hop]
  exact encodeFlagged_fields ((extractLsb'_of_masked h (by decide)).trans hrow)

/-- A word of a row with BS is the encoder's (R68). -/
theorem encodeSized_of_masked {w row : Word} (h : w &&& 0xFF00FFFF = row) (hlow : row.extractLsb' 8 8 = 0#8)
    (hhigh : row.extractLsb' 24 8 = 0#8) : encodeSized (opField row) (w.toNat / 2 ^ 16 % 256) = w := by
  have hop : opField w = opField row := extractLsb'_of_masked h (by decide)
  rw [← hop, ← bsField_eq]
  exact encodeSized_fields ((extractLsb'_of_masked h (by decide)).trans hlow)
    ((extractLsb'_of_masked h (by decide)).trans hhigh)

/-- The legal words: four rows with fields, and the words of the rows without. -/
theorem legalWord_iff {w : Word} : legalWord w = true ↔
    w &&& 0xFFFFFCFF = 0x00000005 ∨ w &&& 0xFFFFFCFF = 0x00000006 ∨
    w &&& 0xFF00FFFF = 0x00000007 ∨ w &&& 0xFF00FFFF = 0x00000008 ∨
    w ∈ [0x00, 0x01, 0x02, 0x03, 0x04, 0x09, 0x0A, 0x0B, 0x0C, 0x0D, 0x0E, 0x0F] := by
  simp [legalWord, or_assoc]

/-- The encoder's words are legal, each by its own row. -/
theorem legalWord_encode (i : Instr) : legalWord (encode i) = true := by
  cases i with
  | enc lf bf => exact legalWord_iff.mpr (.inl (Laws.Row.enc lf bf))
  | dec lf bf => exact legalWord_iff.mpr (.inr (.inl (Laws.Row.dec lf bf)))
  | pad bs => exact legalWord_iff.mpr (.inr (.inr (.inl (Laws.Row.pad bs))))
  | unpad bs => exact legalWord_iff.mpr (.inr (.inr (.inr (.inl (Laws.Row.unpad bs)))))
  | _ => decide

/-- A word that matches no row is rejected (R69). -/
theorem decode_of_illegal {w : Word} (h : legalWord w = false) : ∃ e, decode w = .error e := by
  cases hd : decode w with
  | error e => exact ⟨e, rfl⟩
  | ok i =>
    have hlegal : legalWord w = true := encode_of_decode hd ▸ legalWord_encode i
    exact absurd hlegal (by simp [h])

theorem decode_of_encode_eq {w : Word} {i : Instr} (hw : encode i = w) (hi : i.wellFormed = true) :
    decode w = .ok i := hw ▸ decode_encode hi

/-- Settles O2: a word of a row is the encoder's word of that row's command, and a word that decodes is legal. -/
theorem legalWordsAreTheOpcodeMap : Obligations.LegalWordsAreTheOpcodeMap := by
  intro w
  have hbs : w.toNat / 2 ^ 16 % 256 < 256 := Nat.mod_lt _ (by decide)
  refine ⟨fun h => ?enc, fun h => ?dec, fun h => ?pad, fun h => ?unpad, fun i hi hw => ?plain, decode_of_illegal⟩
  case enc => exact decode_of_encode_eq (encodeFlagged_of_masked h (by decide)) rfl
  case dec => exact decode_of_encode_eq (encodeFlagged_of_masked h (by decide)) rfl
  case pad => exact decode_of_encode_eq (encodeSized_of_masked h (by decide) (by decide)) (decide_eq_true hbs)
  case unpad => exact decode_of_encode_eq (encodeSized_of_masked h (by decide) (by decide)) (decide_eq_true hbs)
  case plain =>
    have hrow : encode i.2 = i.1 ∧ i.2.wellFormed = true := by
      clear hw
      revert i
      decide
    exact decode_of_encode_eq (hrow.1.trans hw.symm) hrow.2

/-- Settles O3: the legal words are the encoder's, and the others have a reserved bit or a reserved OP. -/
theorem writtenOutWordsDecode : Obligations.WrittenOutWordsDecode :=
  ⟨decode_encode (i := .enc true true) rfl, decode_encode (i := .dec true false) rfl,
    decode_encode (i := .enc false true) rfl, decode_encode (i := .pad 8) rfl, decode_encode (i := .unpad 8) rfl,
    decode_encode (i := .key) rfl, decode_encode (i := .rc4) rfl, decode_encode (i := .dhs) rfl,
    decode_encode (i := .srst) rfl, rfl, rfl, rfl⟩

/-! Illegal words -/

theorem op_lt_of_masked {w mask row : Word} (h : w &&& mask = row) (hmask : mask.extractLsb' 0 8 = BitVec.allOnes 8)
    (hrow : (opField row).toNat < 0x10) : (opField w).toNat < 0x10 := by
  rwa [opField, extractLsb'_of_masked h hmask]

/-- OP from 0x10 on is reserved (R69). -/
theorem op_lt_of_legalWord {w : Word} (h : legalWord w = true) : (opField w).toNat < 0x10 := by
  rcases legalWord_iff.mp h with h | h | h | h | hplain
  · exact op_lt_of_masked h (by decide) (by decide)
  · exact op_lt_of_masked h (by decide) (by decide)
  · exact op_lt_of_masked h (by decide) (by decide)
  · exact op_lt_of_masked h (by decide) (by decide)
  · fin_cases hplain <;> decide

theorem engineStep_illegal {s : State} {c : InFlight} (hc : s.inflight = some c) (h : legalWord c.word = false) :
    engineStep s = .next (raiseError false .illegalCommand s) := by
  obtain ⟨e, he⟩ := decode_of_illegal h
  simp [engineStep, hc, he]

/-- Settles O5: issue looks at no field of the word, and the engine raises IllegalCommand for a word of no row. -/
theorem illegalWordCompletesWithIllegalCommand : Obligations.IllegalWordCompletesWithIllegalCommand := by
  refine ⟨fun s w _ hidle hhost => ?issue, fun s c hillegal hhost hc => ?complete, fun w hop => ?reserved⟩
  case issue => exact cmdWriteIssuesWithSnapshot s w [] hidle hhost
  case complete =>
    calc
      step s = engineStep s := step_of_no_access hhost
      _ = .next (raiseError false .illegalCommand s) := engineStep_illegal hc hillegal
      _ = _ := by simp [raiseError, errorCode]
  case reserved =>
    refine Bool.eq_false_iff.mpr fun hlegal => ?_
    have hlt : w.toNat % 256 < 0x10 := by simpa [opField] using op_lt_of_legalWord hlegal
    omega

end Sys2Proof.Proofs

/-! Byte strings and the numbers they stand for (00_scope.md R8): each conversion undoes the other. -/

namespace Sys2Proof.Proofs

open Machine

theorem leNat_toLE (n v : Nat) : leNat (toLE n v) = v % 256 ^ n := by
  induction n generalizing v with
  | zero => simp [toLE, leNat, Nat.mod_one]
  | succ n ih => rw [toLE, leNat, ih, Nat.pow_succ', Nat.mod_mul, BitVec.toNat_ofNat]

theorem toLE_leNat (x : Bytes) : toLE x.length (leNat x) = x := by
  induction x with
  | nil => rfl
  | cons b x ih =>
    have hb : b.toNat < 256 := b.isLt
    have hlow : BitVec.ofNat 8 (b.toNat + 256 * leNat x) = b := by
      rw [← BitVec.toNat_inj, BitVec.toNat_ofNat]
      omega
    have hrest : (b.toNat + 256 * leNat x) / 256 = leNat x := by omega
    rw [List.length_cons, leNat, toLE, hlow, hrest, ih]

theorem leNat_lt (x : Bytes) : leNat x < 256 ^ x.length := by
  rw [← toLE_leNat x, leNat_toLE, Laws.toLE_length]
  exact Nat.mod_lt _ (by positivity)

theorem beNat_toBE (n v : Nat) : beNat (toBE n v) = v % 256 ^ n := by
  rw [beNat, toBE, List.reverse_reverse, leNat_toLE]

theorem toBE_beNat (x : Bytes) : toBE x.length (beNat x) = x := by
  rw [toBE, beNat, ← List.length_reverse, toLE_leNat, List.reverse_reverse]

theorem beNat_lt (x : Bytes) : beNat x < 256 ^ x.length := by
  rw [← List.length_reverse]
  exact leNat_lt _

/-- A 64-bit word reads back from its eight bytes. -/
@[simp] theorem ofNat_beNat_toBE (v : BitVec 64) : BitVec.ofNat 64 (beNat (toBE 8 v.toNat)) = v := by
  have hlt : v.toNat < 256 ^ 8 := v.isLt
  rw [beNat_toBE, Nat.mod_eq_of_lt hlt, BitVec.ofNat_toNat, BitVec.setWidth_eq]

/-- Eight bytes read back from the 64-bit word they make. -/
theorem toBE_toNat_ofNat_beNat {x : Bytes} (hx : x.length = 8) : toBE 8 (BitVec.ofNat 64 (beNat x)).toNat = x := by
  have hlt : beNat x < 2 ^ 64 := by simpa [hx] using beNat_lt x
  rw [BitVec.toNat_ofNat, Nat.mod_eq_of_lt hlt, ← hx, toBE_beNat]

/-- Bit `k` of a little-endian number is bit `k % 8` of byte `k / 8`. -/
theorem leNat_testBit (x : Bytes) (k : Nat) : (leNat x).testBit k = (x.getD (k / 8) 0).getLsbD (k % 8) := by
  induction x generalizing k with
  | nil => simp [leNat]
  | cons b x ih =>
    rw [leNat, Nat.add_comm, Nat.testBit_two_pow_mul_add (i := 8) _ b.isLt]
    split
    · next h => rw [Nat.div_eq_of_lt h, Nat.mod_eq_of_lt h]; rfl
    · next h =>
      rw [ih, show k / 8 = (k - 8) / 8 + 1 by omega, show k % 8 = (k - 8) % 8 by omega]
      rfl

/-- The bits of eight bytes read big-endian, counted from the most significant one: byte 0 first. -/
theorem ofNat_beNat_getMsbD {x : Bytes} (hx : x.length = 8) {j : Nat} (hj : j < 64) :
    (BitVec.ofNat 64 (beNat x)).getMsbD j = (x.getD (j / 8) 0).getMsbD (j % 8) := by
  have hbyte : x.reverse.getD ((63 - j) / 8) 0 = x.getD (j / 8) 0 := by
    simp only [List.getD_eq_getElem?_getD]
    rw [List.getElem?_reverse (by omega), hx, show 8 - 1 - (63 - j) / 8 = j / 8 by omega]
  have hbit : (63 - j) % 8 = 7 - j % 8 := by omega
  rw [BitVec.getMsbD_eq_getLsbD, BitVec.getLsbD_ofNat, beNat, leNat_testBit, hbyte, hbit, BitVec.getMsbD_eq_getLsbD]
  simp [hj, show 63 - j < 64 by omega, show j % 8 < 8 by omega]

end Sys2Proof.Proofs

/-! Bit permutations given by tables (40_block_ciphers.md R74). -/

namespace Sys2Proof.Proofs

open Machine

/-- The number that a table builds up bit by bit, read from its last entry. -/
theorem permute_foldl_testBit {w : Nat} (v : BitVec w) (l : List Nat) (k : Nat) :
    (l.foldr (fun n acc => 2 * acc + (v.getMsbD (n - 1)).toNat) 0).testBit k
      = (l[k]?.map fun n => v.getMsbD (n - 1)).getD false := by
  induction l generalizing k with
  | nil => simp
  | cons n l ih =>
    rw [List.foldr_cons, ← Nat.bit_val]
    cases k with
    | zero => simp
    | succ k => rw [Nat.testBit_bit_succ, ih, List.getElem?_cons_succ]

/-- R74: output bit `j` is the input bit whose FIPS number stands at entry `j`. -/
theorem permute_getMsbD {m w : Nat} {t : List Nat} (ht : t.length = m) (v : BitVec w) {j : Nat} (hj : j < m) :
    (permute m t v).getMsbD j = v.getMsbD (t.getD j 0 - 1) := by
  have hentry : t.reverse[m - 1 - j]? = t[j]? := by
    rw [List.getElem?_reverse (by omega), ht, show m - 1 - (m - 1 - j) = j by omega]
  rw [permute, ← List.foldr_reverse, BitVec.getMsbD_eq_getLsbD, BitVec.getLsbD_ofNat, permute_foldl_testBit, hentry,
    List.getElem?_eq_getElem (ht ▸ hj)]
  simp [hj, ht, show m - 1 - j < m by omega]

/-- A permutation reads the bits its table names, and no other. -/
theorem permute_congr {m w : Nat} {t : List Nat} (ht : t.length = m) {u v : BitVec w}
    (h : ∀ n ∈ t, u.getMsbD (n - 1) = v.getMsbD (n - 1)) : permute m t u = permute m t v := by
  refine BitVec.eq_of_getMsbD_eq fun j hj => ?_
  rw [permute_getMsbD ht u hj, permute_getMsbD ht v hj]
  have hmem : t.getD j 0 ∈ t := by simp [List.getD_eq_getElem?_getD, ht, hj]
  exact h _ hmem

/-- Two tables undo each other when each entry of the second names the place of that bit in the first. -/
theorem permute_permute_of_inverse {m : Nat} {s t : List Nat} (hs : s.length = m) (ht : t.length = m)
    (hinv : ∀ j < m, t.getD j 0 - 1 < m ∧ s.getD (t.getD j 0 - 1) 0 - 1 = j) (v : BitVec m) :
    permute m t (permute m s v) = v := by
  refine BitVec.eq_of_getMsbD_eq fun j hj => ?_
  obtain ⟨hlt, hplace⟩ := hinv j hj
  rw [permute_getMsbD ht _ hj, permute_getMsbD hs v hlt, hplace]

/-- FP undoes IP (R75, R76). -/
@[simp] theorem desFP_desIP (v : BitVec 64) : permute 64 desFP (permute 64 desIP v) = v :=
  permute_permute_of_inverse (m := 64) rfl rfl (by decide) v

/-- IP undoes FP (R75, R76). -/
@[simp] theorem desIP_desFP (v : BitVec 64) : permute 64 desIP (permute 64 desFP v) = v :=
  permute_permute_of_inverse (m := 64) rfl rfl (by decide) v

end Sys2Proof.Proofs

/-! The parity bits of a DES key (40_block_ciphers.md R79, R83). -/

namespace Sys2Proof.Proofs

open Machine

/-- PC1 names bits of the key, and never the last bit of a byte (R79). -/
theorem desPC1_skips_parity : ∀ n ∈ desPC1, n - 1 < 64 ∧ (n - 1) % 8 < 7 := by decide

/-- Bytes that agree in bits 7..1 agree in their first seven bits from the top. -/
theorem getMsbD_eq_of_shiftRight_eq {a b : Byte} (h : a >>> 1 = b >>> 1) {j : Nat} (hj : j < 7) :
    a.getMsbD j = b.getMsbD j := by
  have hbit : (a >>> 1).getMsbD (j + 1) = (b >>> 1).getMsbD (j + 1) := by rw [h]
  simpa [BitVec.getMsbD_ushiftRight, show j + 1 < 8 by omega] using hbit

/-- Settles O40: the schedule reads the key through PC1 only. -/
theorem desParityBitsAreIgnored : Obligations.DesParityBitsAreIgnored := by
  intro k1 k2 hk1 hk2 hagree
  have hpc1 : permute 56 desPC1 (BitVec.ofNat 64 (beNat k1)) = permute 56 desPC1 (BitVec.ofNat 64 (beNat k2)) := by
    refine permute_congr rfl fun n hn => ?_
    obtain ⟨hlt, hparity⟩ := desPC1_skips_parity n hn
    rw [ofNat_beNat_getMsbD hk1 hlt, ofNat_beNat_getMsbD hk2 hlt]
    exact getMsbD_eq_of_shiftRight_eq (hagree _ (by omega)) hparity
  rw [desSubkeys, desSubkeys, hpc1]

end Sys2Proof.Proofs

/-! D undoes E: Feistel rounds run backwards (40_block_ciphers.md R85, R86, R88, R89, R97, R98). -/

namespace Sys2Proof.Proofs

open Machine

theorem desRounds_cons (k : BitVec 48) (ks : List (BitVec 48)) (lr : BitVec 32 × BitVec 32) :
    desRounds (k :: ks) lr = desRounds ks (lr.2, lr.1 ^^^ desF lr.2 k) := rfl

theorem desRounds_append (ks ks' : List (BitVec 48)) (lr : BitVec 32 × BitVec 32) :
    desRounds (ks ++ ks') lr = desRounds ks' (desRounds ks lr) := by
  induction ks generalizing lr with
  | nil => rfl
  | cons k ks ih => exact ih _

/-- The rounds under the reversed subkeys, on swapped halves, go back to the start (R86). -/
theorem desRounds_reverse (ks : List (BitVec 48)) (lr : BitVec 32 × BitVec 32) :
    desRounds ks.reverse (desRounds ks lr).swap = lr.swap := by
  induction ks generalizing lr with
  | nil => rfl
  | cons k ks ih =>
    obtain ⟨l, r⟩ := lr
    rw [desRounds_cons k ks (l, r), List.reverse_cons, desRounds_append, ih]
    simp [desRounds]

theorem desCore_reverse (ks : List (BitVec 48)) (v : BitVec 64) : desCore ks.reverse (desCore ks v) = v := by
  have hback := desRounds_reverse ks ((permute 64 desIP v).extractLsb' 32 32, (permute 64 desIP v).extractLsb' 0 32)
  generalize hlr : desRounds ks _ = lr at hback
  have hcore : desCore ks v = permute 64 desFP (lr.2 ++ lr.1) := by rw [desCore, hlr]
  rw [hcore, desCore, desIP_desFP]
  simp only [BitVec.extractLsb'_append_eq_left, BitVec.extractLsb'_append_eq_right]
  rw [← Prod.swap, hback]
  simp only [Prod.swap, halves_append, desFP_desIP]

/-- R86: decryption undoes encryption, under any list of subkeys. -/
theorem desDecrypt_desEncrypt (ks : List (BitVec 48)) {x : Bytes} (hx : x.length = 8) :
    desDecrypt ks (desEncrypt ks x) = x := by
  rw [desDecrypt, desEncrypt, desEncrypt, ofNat_beNat_toBE, desCore_reverse, toBE_toNat_ofNat_beNat hx]

/-- Reversing the subkeys twice: encryption undoes decryption. -/
theorem desEncrypt_desDecrypt (ks : List (BitVec 48)) {x : Bytes} (hx : x.length = 8) :
    desEncrypt ks (desDecrypt ks x) = x := by
  simpa [desDecrypt] using desDecrypt_desEncrypt ks.reverse hx

theorem tdesDecrypt_tdesEncrypt (k1 k2 k3 : List (BitVec 48)) {x : Bytes} (hx : x.length = 8) :
    tdesDecrypt k1 k2 k3 (tdesEncrypt k1 k2 k3 x) = x := by
  rw [tdesDecrypt, tdesEncrypt, desDecrypt_desEncrypt k3 (Laws.desDecrypt_length ..),
    desEncrypt_desDecrypt k2 (Laws.desEncrypt_length ..), desDecrypt_desEncrypt k1 hx]

theorem tdesEncrypt_tdesDecrypt (k1 k2 k3 : List (BitVec 48)) {x : Bytes} (hx : x.length = 8) :
    tdesEncrypt k1 k2 k3 (tdesDecrypt k1 k2 k3 x) = x := by
  rw [tdesDecrypt, tdesEncrypt, desEncrypt_desDecrypt k1 (Laws.desEncrypt_length ..),
    desDecrypt_desEncrypt k2 (Laws.desDecrypt_length ..), desEncrypt_desDecrypt k3 hx]

/-- Steps taken back in reverse order. -/
theorem foldl_reverse_foldl {α β : Type} {f g : α → β → α} (h : ∀ a b, g (f a b) b = a) (l : List β)
    (a : α) : l.reverse.foldl g (l.foldl f a) = a := by
  induction l generalizing a with
  | nil => rfl
  | cons b l ih => rw [List.foldl_cons, List.reverse_cons, List.foldl_append, ih]; exact h a b

theorem lokiUnround_lokiRound (ks : List (BitVec 64)) (lr : BitVec 64 × BitVec 64) (r : Nat) :
    lokiUnround ks (lokiRound ks lr r) r = lr := by
  simp [lokiUnround, lokiRound]

theorem lokiRound_lokiUnround (ks : List (BitVec 64)) (lr : BitVec 64 × BitVec 64) (r : Nat) :
    lokiRound ks (lokiUnround ks lr r) r = lr := by
  simp [lokiUnround, lokiRound]

/-! The halves of a 16-byte block (R96) -/

@[simp] theorem lokiHalf0_append (u v : BitVec 64) : lokiHalf0 (toBE 8 u.toNat ++ toBE 8 v.toNat) = u := by
  rw [lokiHalf0, List.take_left' (Laws.toBE_length ..), ofNat_beNat_toBE]

@[simp] theorem lokiHalf1_append (u v : BitVec 64) : lokiHalf1 (toBE 8 u.toNat ++ toBE 8 v.toNat) = v := by
  rw [lokiHalf1, List.drop_left' (Laws.toBE_length ..), ofNat_beNat_toBE]

theorem lokiHalves_append {x : Bytes} (hx : x.length = 16) :
    toBE 8 (lokiHalf0 x).toNat ++ toBE 8 (lokiHalf1 x).toNat = x := by
  rw [lokiHalf0, lokiHalf1, toBE_toNat_ofNat_beNat (by simp [hx]), toBE_toNat_ofNat_beNat (by simp [hx]),
    List.take_append_drop]

theorem lokiDecrypt_lokiEncrypt (ks : List (BitVec 64)) {x : Bytes} (hx : x.length = 16) :
    lokiDecrypt ks (lokiEncrypt ks x) = x := by
  rw [lokiEncrypt, lokiDecrypt, lokiHalf0_append, lokiHalf1_append, Prod.mk.eta,
    foldl_reverse_foldl (lokiUnround_lokiRound ks), lokiHalves_append hx]

theorem lokiEncrypt_lokiDecrypt (ks : List (BitVec 64)) {x : Bytes} (hx : x.length = 16) :
    lokiEncrypt ks (lokiDecrypt ks x) = x := by
  have hback (a : BitVec 64 × BitVec 64) (l : List Nat) :
      l.foldl (lokiRound ks) (l.reverse.foldl (lokiUnround ks) a) = a := by
    simpa using foldl_reverse_foldl (lokiRound_lokiUnround ks) l.reverse a
  rw [lokiDecrypt, lokiEncrypt, lokiHalf0_append, lokiHalf1_append, Prod.mk.eta, hback, lokiHalves_append hx]

/-- Settles O38: cipher by cipher, whatever the subkeys. -/
theorem blockCipherIsInverted : Obligations.BlockCipherIsInverted := by
  intro a key x hx
  cases a with
  | des => exact ⟨desDecrypt_desEncrypt _ hx, desEncrypt_desDecrypt _ hx⟩
  | tdes => exact ⟨tdesDecrypt_tdesEncrypt _ _ _ hx, tdesEncrypt_tdesDecrypt _ _ _ hx⟩
  | loki => exact ⟨lokiDecrypt_lokiEncrypt _ hx, lokiEncrypt_lokiDecrypt _ hx⟩

/-! The LOKI97 key cancels (R99) -/

/-- R99: the key word enters a subkey twice and cancels; only the constant of the subkey's number is left. -/
theorem lokiSubkey_eq (key : Bytes) (i : Nat) :
    lokiSubkey key i = lokiPerm (lokiSLayer (Config.lokiDelta * BitVec.ofNat 64 (i + 1))) := by
  rw [lokiSubkey, lokiF, BitVec.xor_comm (lokiKVal key i), BitVec.xor_assoc, BitVec.xor_self, BitVec.xor_zero]

theorem lokiSubkeys_key_irrelevant (k1 k2 : Bytes) : lokiSubkeys k1 = lokiSubkeys k2 :=
  List.map_congr_left fun i _ => (lokiSubkey_eq k1 i).trans (lokiSubkey_eq k2 i).symm

/-- Settles O39: E and D read the key through the subkeys only. -/
theorem lokiIsKeyIndependent : Obligations.LokiIsKeyIndependent := by
  intro k1 k2 x _ _
  have hks := lokiSubkeys_key_irrelevant k1 k2
  simp [scheduleOf, hks]

end Sys2Proof.Proofs

/-! The commands KEY, ENCB and DECB: the first failing check names the error (40_block_ciphers.md R100 to R102,
60_exceptions.md R161). -/

namespace Sys2Proof.Proofs

open Machine

/-- The code a list of checks ends in: that of the first failing one, or 0 (60_exceptions.md R156, R161). -/
def checksCode (cs : List (Bool × ErrorKind)) : Byte := ((firstError cs).map errorCode).getD 0

@[simp] theorem checksCode_nil : checksCode [] = 0 := rfl

@[simp] theorem checksCode_cons (b : Bool) (e : ErrorKind) (cs : List (Bool × ErrorKind)) :
    checksCode ((b, e) :: cs) = if b then errorCode e else checksCode cs := by
  cases b <;> rfl

/-- A raised error writes what 60_exceptions.md R160 lists. -/
theorem failsWith_of_raiseError {i : Instr} {s : State} {e : ErrorKind}
    (h : exec i s = .next (raiseError (endsOperation i) e s)) : failsWith i (errorCode e) s := h

/-- A command of checks that ends in a code other than 0 raises the error of that code. -/
theorem failsWith_of_checks {i : Instr} {s ok : State} {cs : List (Bool × ErrorKind)}
    (h : exec i s = .next (afterChecks (endsOperation i) cs ok s)) (hne : checksCode cs ≠ 0) :
    failsWith i (checksCode cs) s := by
  unfold checksCode at hne ⊢
  cases he : firstError cs with
  | none => simp [he] at hne
  | some e =>
    rw [Laws.afterChecks_fail he] at h
    exact failsWith_of_raiseError h

/-- R101, R102: the errors of ENCB and DECB, in order. -/
theorem oneBlock_failsWith {i : Instr} {f : KeySchedule → Bytes → Bytes} {s : State} {e : Byte}
    (hi : endsOperation i = false) (hexec : exec i s = .next (oneBlock f s))
    (he : e =
      (if s.keyed = false then 0x0A
       else if s.operands.lenN ≠ s.blockSize then 0x04
       else if Config.bufSize < s.operands.srcN + s.blockSize ∨
          Config.bufSize < s.operands.dstN + s.blockSize then 0x0B
       else 0x00)) (hne : e ≠ 0x00) : failsWith i e s := by
  have hcode : e = checksCode
      [(!s.keyed, .stateError), (decide (s.operands.lenN ≠ s.blockSize), .invalidBlockSize),
       (!inBuf s.operands.srcN s.blockSize || !inBuf s.operands.dstN s.blockSize, .addressError)] := by
    simp [he, inBuf, errorCode]
  rw [hcode] at hne ⊢
  exact failsWith_of_checks (by rw [hexec, hi]; rfl) hne

/-- What is stored shows in BUF alone, so completion keeps it. -/
theorem storedAt_complete {s t : State} {a : Nat} {v : Bytes} (h : storedAt s t a v) (n : Nat) :
    storedAt s (complete n t) a v := by
  obtain ⟨hread, hframe⟩ := h
  exact ⟨(Laws.bufRead_congr (by rfl) (by rfl) ..).trans hread,
    fun x hx => (Laws.bufByte_congr (by rfl) (by rfl) x).trans (hframe x hx)⟩

/-- R101, R102: with every check passed, one block of the function's output stands at DST and nothing else changes. -/
theorem oneBlock_stores {i : Instr} {f : KeySchedule → Bytes → Bytes} {s : State}
    (hexec : exec i s = .next (oneBlock f s)) (hs : cipherInv s)
    (hf : ∀ a key x, (f (scheduleOf a key) x).length = a.blockSize) (hkeyed : s.keyed = true)
    (hlen : s.operands.lenN = s.blockSize) (hsrc : s.operands.srcN + s.blockSize ≤ Config.bufSize)
    (hdst : s.operands.dstN + s.blockSize ≤ Config.bufSize) :
    ∃ t, exec i s = .next t ∧
      t = { s with mem := t.mem, outlen := BitVec.ofNat 32 s.blockSize, errcode := 0, err := false, done := true,
                   inflight := none } ∧
      (f s.sched (bufRead s s.operands.srcN s.blockSize)).length = s.blockSize ∧
      storedAt s t s.operands.dstN (f s.sched (bufRead s s.operands.srcN s.blockSize)) := by
  obtain ⟨hkey, -⟩ := hs
  have hlength (x : Bytes) : (f s.sched x).length = s.blockSize := by
    rw [(hkey hkeyed).2, hf]
    rfl
  have hpass : oneBlock f s = complete s.blockSize
      (bufWrite s s.operands.dstN (f s.sched (bufRead s s.operands.srcN s.blockSize))) :=
    Laws.afterChecks_pass (by simp [firstError, inBuf, hkeyed, hlen, hsrc, hdst]) ..
  exact ⟨_, by rw [hexec, hpass], rfl, hlength _, storedAt_complete (storedAt_bufWrite ..) _⟩

/-- Settles O27: ENCB and DECB are one command, with E or with D. -/
theorem encbAndDecbCommands : Obligations.EncbAndDecbCommands :=
  ⟨rfl, rfl,
    fun _ _ he hne => ⟨oneBlock_failsWith rfl rfl he hne, oneBlock_failsWith rfl rfl he hne⟩,
    fun _ hs hkeyed hlen hsrc hdst =>
      ⟨oneBlock_stores rfl hs Laws.encryptBlock_length hkeyed hlen hsrc hdst,
        oneBlock_stores rfl hs Laws.decryptBlock_length hkeyed hlen hsrc hdst⟩⟩

/-- The codes of CTRL.ALG (10_state.md R20). -/
theorem algOf_cases (c : BitVec 3) :
    (2 < c.toNat ∧ algOf c = none) ∨ (c = 0 ∧ algOf c = some .des) ∨ (c = 1 ∧ algOf c = some .tdes) ∨
      (c = 2 ∧ algOf c = some .loki) := by
  revert c
  decide

theorem exec_key_of_algOf_none {s : State} (h : algOf s.operands.algCode = none) :
    exec .key s = .next (raiseError false .unsupportedAlgorithm s) := by
  simp [exec, execKey, h]

theorem exec_key_of_algOf_some {s : State} {a : Alg} (h : algOf s.operands.algCode = some a) :
    exec .key s = .next (keyWith a s) := by
  simp [exec, execKey, h]

/-- R100: KEY with a known algorithm fails on the key's length, then on its place. -/
theorem key_failsWith {s : State} {a : Alg} {e : Byte} (ha : algOf s.operands.algCode = some a)
    (he : e =
      (if a.legalKeyLength s.operands.lenN = false then 0x02
       else if Config.bufSize < s.operands.srcN + s.operands.lenN then 0x0B
       else 0x00)) (hne : e ≠ 0x00) : failsWith .key e s := by
  have hcode : e = checksCode
      [(!a.legalKeyLength s.operands.lenN, .invalidKeySize),
       (!inBuf s.operands.srcN s.operands.lenN, .addressError)] := by
    simp [he, inBuf, errorCode]
  rw [hcode] at hne ⊢
  exact failsWith_of_checks (exec_key_of_algOf_some ha) hne

/-- R100: with every check passed, KEY loads the key and its schedule and drops the context. -/
theorem key_loads {s : State} {a : Alg} (ha : algOf s.operands.algCode = some a)
    (hlen : a.legalKeyLength s.operands.lenN = true)
    (hsrc : s.operands.srcN + s.operands.lenN ≤ Config.bufSize) :
    exec .key s = .next (complete 0
      { s with key := bufRead s s.operands.srcN s.operands.lenN, lalg := a, keyed := true,
               sched := scheduleOf a (bufRead s s.operands.srcN s.operands.lenN),
               ctxv := false, iv := none, opact := false }) := by
  rw [exec_key_of_algOf_some ha, keyWith, Laws.afterChecks_pass (by simp [firstError, inBuf, hlen, hsrc])]

/-- Settles O25, by the code of CTRL.ALG. -/
theorem keyCommand : Obligations.KeyCommand := by
  refine ⟨rfl, fun s e he hne => ?errors, fun s a ha hsrc => ?loads⟩
  case errors =>
    rcases algOf_cases s.operands.algCode with ⟨hc, ha⟩ | ⟨hc, ha⟩ | ⟨hc, ha⟩ | ⟨hc, ha⟩
    · rw [he, if_pos hc]
      exact failsWith_of_raiseError (exec_key_of_algOf_none ha)
    all_goals
      refine key_failsWith ha ?_ hne
      rw [he, hc]
      simp [Alg.legalKeyLength, and_assoc]
  case loads =>
    rcases ha with ⟨hc, hlen, rfl⟩ | ⟨hc, hlen, rfl⟩ | ⟨hc, hlen, rfl⟩
    all_goals exact key_loads (by rw [hc]; rfl) (by simp [Alg.legalKeyLength, hlen, or_assoc]) hsrc

end Sys2Proof.Proofs

/-! RC4 over byte strings: the PRGA's state goes from one string to the next, and its output bytes are a mask
(41_rc4.md R104, R106). -/

namespace Sys2Proof.Proofs

open Machine

theorem rc4Process_cons (r : Rc4State) (x : Byte) (xs : Bytes) :
    rc4Process r (x :: xs) =
      ((x ^^^ prgaKey (prgaNext r)) :: (rc4Process (prgaNext r) xs).1, (rc4Process (prgaNext r) xs).2) := rfl

/-- A string may be cut anywhere: the second part goes on from the state that the first leaves (R106). -/
theorem rc4Process_append (r : Rc4State) (a b : Bytes) :
    rc4Process r (a ++ b) =
      ((rc4Process r a).1 ++ (rc4Process (rc4Process r a).2 b).1, (rc4Process (rc4Process r a).2 b).2) := by
  induction a generalizing r with
  | nil => rfl
  | cons x a ih => simp [rc4Process_cons, ih]

/-- From the same state the same keystream is XORed again, and it cancels (R106). -/
theorem rc4Process_involutive (r : Rc4State) (a : Bytes) : (rc4Process r (rc4Process r a).1).1 = a := by
  induction a generalizing r with
  | nil => rfl
  | cons x a ih => simp [rc4Process_cons, ih]

/-- Settles O41: the keystream depends on the state alone. -/
theorem rc4StreamLaws : Obligations.Rc4StreamLaws := by
  intro r a b
  rw [rc4Process_append]
  exact ⟨rfl, rfl, rc4Process_involutive r a⟩

end Sys2Proof.Proofs

/-! The commands RC4KEY and RC4 (41_rc4.md R105, R106). -/

namespace Sys2Proof.Proofs

open Machine

/-- A command whose checks end in the code `e`, other than 0, raises the error of `e`. -/
theorem failsWith_of_checksCode {i : Instr} {s ok : State} {cs : List (Bool × ErrorKind)} {e : Byte}
    (h : exec i s = .next (afterChecks (endsOperation i) cs ok s)) (he : e = checksCode cs) (hne : e ≠ 0) :
    failsWith i e s := by
  subst he
  exact failsWith_of_checks h hne

/-- R105: with every check passed, RC4KEY keys the unit and does nothing else. -/
theorem exec_rc4key_of_checks {s : State} (hpos : 1 ≤ s.operands.lenN) (hlen : s.operands.lenN ≤ 256)
    (hsrc : s.operands.srcN + s.operands.lenN ≤ Config.bufSize) :
    exec .rc4key s = .next (complete 0
      { s with rcS := ksa (bufRead s s.operands.srcN s.operands.lenN), rcI := 0, rcJ := 0, rc4k := true }) := by
  refine congrArg Host.Outcome.next (Laws.afterChecks_pass ?_ ..)
  simp [firstError, inBuf, Nat.ne_of_gt hpos, hlen, hsrc]

/-- Settles O32: the checks in their order, and the key schedule once they pass. -/
theorem rc4keyCommand : Obligations.Rc4keyCommand := by
  refine ⟨rfl, fun s e he hne => ?errors, fun s hpos hlen hsrc => ?effect⟩
  case errors => exact failsWith_of_checksCode rfl (by simp [he, inBuf, errorCode]) hne
  case effect =>
    rw [exec_rc4key_of_checks hpos hlen hsrc]
    generalize ksa _ = permutation
    rfl

/-- R106: with every check passed, the PRGA's output goes to DST and its state into the unit. -/
theorem exec_rc4_of_checks {s : State} (hkeyed : s.rc4k = true)
    (hsrc : s.operands.srcN + s.operands.lenN ≤ Config.bufSize)
    (hdst : s.operands.dstN + s.operands.lenN ≤ Config.bufSize) {out : Bytes × Rc4State}
    (hout : out = rc4Process s.rc4 (bufRead s s.operands.srcN s.operands.lenN)) :
    exec .rc4 s = .next (complete s.operands.lenN
      (bufWrite { s with rcS := out.2.s, rcI := out.2.i, rcJ := out.2.j } s.operands.dstN out.1)) := by
  subst hout
  refine congrArg Host.Outcome.next (Laws.afterChecks_pass ?_ ..)
  simp [firstError, inBuf, hkeyed, hsrc, hdst]

/-- Settles O33: the checks in their order, and the PRGA over the input once they pass. -/
theorem rc4Command : Obligations.Rc4Command := by
  refine ⟨rfl, fun s e he hne => ?errors, fun s out hkeyed hsrc hdst hout => ⟨?length, ?effect⟩⟩
  case errors => exact failsWith_of_checksCode rfl (by simp [he, inBuf, errorCode]) hne
  case length => rw [hout, Laws.rc4Process_length, Laws.bufRead_length]
  case effect =>
    have houtlen : BitVec.ofNat 32 s.operands.lenN = s.operands.len := BitVec.ofNat_toNat ..
    refine ⟨_, exec_rc4_of_checks hkeyed hsrc hdst hout, ?_, ?_⟩
    · rw [← houtlen]
      rfl
    · exact storedAt_complete (storedAt_bufWrite ..) _

end Sys2Proof.Proofs

/-! The RC4 unit's invariant: every write of S is a swap (41_rc4.md R103, R104). -/

namespace Sys2Proof.Proofs

open Machine

@[simp] theorem rc4Identity_length : rc4Identity.length = 256 := by simp [rc4Identity]

theorem rc4Swap_perm {s : Bytes} {i j : Nat} (hi : i < s.length) (hj : j < s.length) : (rc4Swap s i j).Perm s := by
  rw [rc4Swap, rc4At, rc4At, List.getD_eq_getElem s _ hi, List.getD_eq_getElem s _ hj]
  exact List.set_set_perm hi hj

/-- A swap at two indices below 256 keeps S a permutation of 0..255. -/
theorem rc4Swap_permutation {s : Bytes} {i j : Nat} (hs : s.Perm rc4Identity) (hi : i < 256) (hj : j < 256) :
    (rc4Swap s i j).Perm rc4Identity := by
  have hlen : s.length = 256 := hs.length_eq.trans rc4Identity_length
  exact (rc4Swap_perm (hlen ▸ hi) (hlen ▸ hj)).trans hs

theorem ksaLoop_permutation (key : Bytes) {ks : List Nat} {s : Bytes} (j : Byte) (hks : ∀ k ∈ ks, k < 256)
    (hs : s.Perm rc4Identity) : (ksaLoop key ks s j).Perm rc4Identity := by
  induction ks generalizing s j with
  | nil => exact hs
  | cons k ks ih =>
    obtain ⟨hk, hks⟩ := List.forall_mem_cons.1 hks
    exact ih _ hks (rc4Swap_permutation hs hk (BitVec.isLt _))

/-- R103: the key schedule leaves a permutation of 0..255, whatever the key. -/
theorem ksa_permutation (key : Bytes) : (ksa key).Perm rc4Identity :=
  ksaLoop_permutation key _ (fun _ => List.mem_range.1) (.refl _)

/-- R104: the PRGA keeps S a permutation of 0..255. -/
theorem rc4Process_permutation {r : Rc4State} (x : Bytes) (hr : r.s.Perm rc4Identity) :
    (rc4Process r x).2.s.Perm rc4Identity := by
  induction x generalizing r with
  | nil => exact hr
  | cons b x ih => exact ih (rc4Swap_permutation hr (BitVec.isLt _) (BitVec.isLt _))

theorem rc4Inv_of_permutation {s : State} (hs : s.rcS.Perm rc4Identity) : rc4Inv s :=
  ⟨hs.length_eq.trans rc4Identity_length, fun _ => hs⟩

theorem rc4Inv_of_unkeyed {s : State} (hlen : s.rcS.length = 256) (hkeyed : s.rc4k = false) : rc4Inv s :=
  ⟨hlen, by simp [hkeyed]⟩

theorem exec_keeps_rc4Inv {i : Instr} {s t : State} (hs : rc4Inv s) (h : exec i s = .next t) : rc4Inv t := by
  cases i with
  | rc4key =>
    rcases Laws.execRc4key_cases h with ⟨e, rfl⟩ | ⟨-, -, -, rfl⟩
    · exact hs
    · exact rc4Inv_of_permutation (by simp [ksa_permutation])
  | rc4 =>
    rcases Laws.execRc4_cases h with ⟨e, rfl⟩ | ⟨hkeyed, -, -, rfl⟩
    · exact hs
    · obtain ⟨-, hperm⟩ := hs
      exact rc4Inv_of_permutation (rc4Process_permutation (r := s.rc4) _ (hperm hkeyed))
  | srst => cases h; exact rc4Inv_of_unkeyed (Laws.zeroBytes_length 256) rfl
  | _ =>
    obtain ⟨hunit, -⟩ := unitsAreSeparate _ s t h
    obtain ⟨hkeyed, hS, -⟩ := hunit nofun nofun nofun
    unfold rc4Inv
    rwa [hkeyed, hS]

end Sys2Proof.Proofs

/-! The Diffie-Hellman unit's invariant (10_state.md R38, 44_dh_modexp.md R139 to R144). -/

namespace Sys2Proof.Proofs

open Machine

theorem modExpSteps_lt (n b e : Nat) {m acc : Nat} (hacc : acc < m) : modExpSteps n b e m acc < m := by
  induction n generalizing b e acc with
  | zero => exact hacc
  | succ n ih =>
    refine ih _ _ ?_
    split
    · exact Nat.mod_lt _ (Nat.zero_lt_of_lt hacc)
    · exact hacc

/-- The engine's result is reduced (R139). -/
theorem modExp_lt (b e : Nat) {m : Nat} (hm : 0 < m) : modExp b e m < m := modExpSteps_lt _ _ _ (Nat.mod_lt _ hm)

/-- A drawn exponent lies in its interval (R141). -/
theorem drawExponent_range (g : Nat) : 1 ≤ (drawExponent g).toNat ∧ (drawExponent g).toNat ≤ 2 ^ 255 - 1 := by
  have hlt : (Config.drawExponentBits g).toNat % (2 ^ 255 - 1) < 2 ^ 255 - 1 := Nat.mod_lt _ (by decide)
  rw [drawExponent, BitVec.toNat_ofNat]
  omega

theorem dhInv_of_absent {s : State} (hdhv : s.dhv = false) (hsecv : s.secv = false) : dhInv s := by
  simp [dhInv, hdhv, hsecv]

/-- R142, R143: a new participant with a group of the legal size is coherent, and has no secret yet. -/
theorem newParticipant_dhInv {p g plen : Nat} (s : State) (draw : Nat) (hp : 3 ≤ p) (hwidth : p < 2 ^ (8 * plen))
    (hplen : 1 ≤ plen ∧ plen ≤ Config.modexpMaxBytes) (hg : g < 2 ^ (8 * Config.modexpMaxBytes)) :
    dhInv (newParticipant p g plen (drawExponent draw) s) := by
  obtain ⟨hx, hx'⟩ := drawExponent_range draw
  exact ⟨fun _ => ⟨hp, hwidth, hplen.1, hplen.2, hg, hx, hx', rfl⟩, nofun⟩

/-- A number read from BUF fits the range it was read from. -/
theorem beNat_bufRead_lt (s : State) (a n : Nat) : beNat (bufRead s a n) < 2 ^ (8 * n) := by
  have hlt := beNat_lt (bufRead s a n)
  rwa [Laws.bufRead_length, show 256 = 2 ^ 8 from rfl, ← Nat.pow_mul] at hlt

/-- R140: p of the fixed group has PLEN bytes, and p and g are of the legal size. -/
theorem group5_legal : 3 ≤ group5Prime ∧ group5Prime < 2 ^ (8 * group5Len) ∧
    group5Gen < 2 ^ (8 * Config.modexpMaxBytes) := by decide +kernel

theorem exec_keeps_dhInv {i : Instr} {s t : State} (hs : dhInv s) (h : exec i s = .next t) : dhInv t := by
  cases i with
  | dhi =>
    rcases Laws.execDhi_cases h with ⟨e, rfl⟩ | ⟨-, rfl⟩
    · exact hs
    · obtain ⟨hp, hwidth, hg⟩ := group5_legal
      exact newParticipant_dhInv _ _ hp hwidth (by decide) hg
  | dhr =>
    rcases Laws.execDhr_cases h with ⟨e, rfl⟩ | ⟨hpos, hlen, hlen2, -, -, -, hp, rfl⟩
    · exact hs
    · have hg := (beNat_bufRead_lt s s.operands.src2N s.operands.len2N).trans_le
        (Nat.pow_le_pow_right Nat.two_pos (Nat.mul_le_mul_left 8 hlen2))
      exact newParticipant_dhInv _ _ hp (beNat_bufRead_lt ..) ⟨hpos, hlen⟩ hg
  | dhs =>
    rcases Laws.execDhs_cases h with ⟨e, rfl⟩ | ⟨hdhv, -, -, -, rfl⟩
    · exact hs
    · obtain ⟨hparticipant, -⟩ := hs
      obtain ⟨hp, -⟩ := hparticipant hdhv
      exact ⟨hparticipant, fun _ => ⟨hdhv, modExp_lt _ _ (by omega)⟩⟩
  | srst => cases h; exact dhInv_of_absent rfl rfl
  | _ =>
    obtain ⟨-, hunit, -⟩ := unitsAreSeparate _ s t h
    obtain ⟨hdhv, hdhp, hdhg, hplen, hdhx, hdhy, hsecret⟩ := hunit nofun nofun nofun
    obtain ⟨hsecv, hsreg⟩ := hsecret nofun
    unfold dhInv
    rwa [hdhv, hdhp, hdhg, hplen, hdhx, hdhy, hsecv, hsreg]

end Sys2Proof.Proofs

/-! Both units under every step. -/

namespace Sys2Proof.Proofs

open Machine

/-- What a host step can change, but for the reset input: the register window, BUF, the command in flight and the host's own
side (00_scope.md R13). -/
theorem hostStep_frame {op : HostOp} {s t : State} (h : hostStep op s = .next t) :
    t = hardReset s ∨
    t = { s with regs := t.regs, errcode := t.errcode, done := t.done, err := t.err, haz := t.haz,
                 inflight := t.inflight, mem := t.mem, replies := t.replies, draws := t.draws } := by
  rcases Laws.hostStep_cases h with ⟨w, off, -, h⟩ | ⟨w, off, v, -, h⟩ | ⟨-, rfl⟩ | ⟨-, rfl⟩
  · rcases Laws.hostRead_cases h with ⟨_, -, rfl⟩ | ⟨_, _, -, ⟨-, rfl⟩ | ⟨-, rfl⟩⟩ <;> exact .inr rfl
  · rcases Laws.hostWrite_cases h with ⟨-, rfl⟩ | ⟨-, r, -, rfl⟩ | ⟨-, _, _, -, rfl⟩
    · exact .inr rfl
    · rcases Laws.regWrite_cases r v s with h | h | ⟨_, h, -⟩ <;> rw [h] <;> exact .inr rfl
    · exact .inr rfl
  · exact .inr rfl
  · exact .inl rfl

theorem hostStep_keeps_rc4Inv {op : HostOp} {s t : State} (hs : rc4Inv s) (h : hostStep op s = .next t) : rc4Inv t := by
  rcases hostStep_frame h with rfl | ht
  · exact rc4Inv_of_unkeyed (by simp) rfl
  · rw [ht]
    exact hs

theorem hostStep_keeps_dhInv {op : HostOp} {s t : State} (hs : dhInv s) (h : hostStep op s = .next t) : dhInv t := by
  rcases hostStep_frame h with rfl | ht
  · exact dhInv_of_absent rfl rfl
  · rw [ht]
    exact hs

/-- Settles O54: S is only keyed, swapped or reset, and a participant and its secret are only made whole. -/
theorem stepKeepsTheRc4AndDhInvariants : Obligations.StepKeepsTheRc4AndDhInvariants := fun _ _ h =>
  ⟨fun hs => step_preserves (fun _ _ _ h => h) (fun _ _ _ => exec_keeps_rc4Inv) (fun _ h => h)
      (fun _ _ _ => hostStep_keeps_rc4Inv) hs h,
    fun hs => step_preserves (fun _ _ _ h => h) (fun _ _ _ => exec_keeps_dhInv) (fun _ h => h)
      (fun _ _ _ => hostStep_keeps_dhInv) hs h⟩

end Sys2Proof.Proofs

/-! Unpadding after padding (42_padding.md R107 to R117): Zeros strips every trailing 00, and the other schemes strip as many
bytes as the final one counts. -/

namespace Sys2Proof.Proofs

open Machine

theorem stripZeros_append_zeroBytes (data : Bytes) (n : Nat) : stripZeros (data ++ zeroBytes n) = stripZeros data := by
  unfold stripZeros
  rw [List.reverse_append, List.dropWhile_append_of_pos]
  simp [zeroBytes]

theorem stripZeros_eq_self_iff (data : Bytes) : stripZeros data = data ↔ data.getLast? ≠ some 0 := by
  have hdrop : stripZeros data = data ↔ ∀ h : data ≠ [], ¬ (data.getLast h == 0#8) := List.rdropWhile_eq_self_iff
  rw [hdrop]
  cases data using List.reverseRecOn <;> simp

/-- A tail that meets the scheme's test and ends in its own length is what the strip takes off. -/
theorem stripCounted_append {tailOk : Byte → Bytes → Bool} {fill : Bytes} {p : Byte} {bs : Nat} (data : Bytes)
    (hcount : p.toNat = fill.length + 1) (hbs : p.toNat ≤ bs) (hok : tailOk p (fill ++ [p]) = true) :
    stripCounted tailOk (data ++ (fill ++ [p])) bs = data := by
  have hlast : (data ++ (fill ++ [p])).getLast? = some p := by simp
  have hlength : (data ++ (fill ++ [p])).length = data.length + p.toNat := by simp [hcount]
  have hpos : p.toNat ≠ 0 := by omega
  simp [stripCounted, hlast, hlength, hpos, hbs, hok]

/-- R109 to R111: a byte can hold the number of bytes that a counting scheme adds. -/
theorem padCount_legal (n : Nat) {bs : Nat} (hpos : 1 ≤ bs) (hbs : bs ≤ 255) :
    1 ≤ bs - n % bs ∧ bs - n % bs ≤ bs ∧ (BitVec.ofNat 8 (bs - n % bs)).toNat = bs - n % bs := by
  have hlt : n % bs < bs := Nat.mod_lt _ hpos
  refine ⟨by omega, by omega, ?_⟩
  rw [BitVec.toNat_ofNat, Nat.mod_eq_of_lt (by omega)]

/-- R109: the tail of PKCS7 ends in its length, as the other counting schemes' do. -/
theorem padTail_pkcs7 {n bs : Nat} (filler : Bytes) (hpos : 1 ≤ bs - n % bs) :
    padTail .pkcs7 n bs filler =
      List.replicate (bs - n % bs - 1) (BitVec.ofNat 8 (bs - n % bs)) ++ [BitVec.ofNat 8 (bs - n % bs)] := by
  rw [← List.replicate_succ', Nat.sub_add_cancel hpos]
  rfl

/-- R117: the final byte of a counting scheme tells how much to strip, whatever the filler is. -/
theorem unpadBytes_padBytes {sch : Scheme} {data filler : Bytes} {bs : Nat} (hsch : sch ≠ .zeros) (hpos : 1 ≤ bs)
    (hbs : bs ≤ 255) (hfiller : filler.length = padDraws sch data.length bs) :
    unpadBytes sch (padBytes sch data bs filler) bs = data := by
  obtain ⟨hk, hkbs, hcount⟩ := padCount_legal data.length hpos hbs
  have hcancel : bs - data.length % bs - 1 + 1 = bs - data.length % bs := Nat.sub_add_cancel hk
  cases sch with
  | zeros => exact absurd rfl hsch
  | pkcs7 =>
    rw [padBytes, padTail_pkcs7 filler hk]
    refine stripCounted_append data ?_ (hcount.trans_le hkbs) ?_
    · rw [hcount, List.length_replicate, hcancel]
    · simp [pkcs7Tail]
  | ansix923 =>
    refine stripCounted_append data ?_ (hcount.trans_le hkbs) ?_
    · rw [Laws.zeroBytes_length]
      exact hcount.trans hcancel.symm
    · simp [ansiTail, zeroBytes]
  | iso10126 =>
    refine stripCounted_append data ?_ (hcount.trans_le hkbs) rfl
    rw [hfiller]
    exact hcount.trans hcancel.symm

/-- Settles O42: a counting scheme strips exactly its own tail, Zeros every trailing 00 of the data too. -/
theorem unpadUndoesPad : Obligations.UnpadUndoesPad := by
  intro sch data filler bs hpos hbs hfiller
  refine ⟨fun hsch => unpadBytes_padBytes hsch hpos hbs hfiller, ?zeros, ?whole⟩
  case zeros =>
    rintro rfl
    have hstrip : unpadBytes .zeros (padBytes .zeros data bs filler) bs = stripZeros data :=
      stripZeros_append_zeroBytes data _
    rw [hstrip]
    exact stripZeros_eq_self_iff data
  case whole =>
    rw [Laws.padBytes_length _ _ _ _ hpos hfiller]
    exact add_padLen_mod sch _ hpos

end Sys2Proof.Proofs

/-! The commands PAD and UNPAD (42_padding.md R118, R119). -/

namespace Sys2Proof.Proofs

open Machine

/-- The codes 4 to 7 of CTRL.PAD name no scheme (10_state.md R22). -/
theorem schemeOf_eq_none_iff (c : BitVec 3) : schemeOf c = none ↔ 3 < c.toNat := by
  revert c
  decide

theorem code_eq_zero_iff_of_schemeOf {c : BitVec 3} {sch : Scheme} (h : schemeOf c = some sch) : c = 0 ↔ sch = .zeros := by
  revert c sch
  decide

/-- R107, R108: the length that CTRL.PAD's code asks for; only Zeros adds nothing to whole blocks. -/
theorem padLen_of_schemeOf {c : BitVec 3} {sch : Scheme} (h : schemeOf c = some sch) (n bs : Nat) :
    padLen sch n bs = if c = 0 ∧ n % bs = 0 then 0 else bs - n % bs := by
  simp only [code_eq_zero_iff_of_schemeOf h]
  cases sch <;> simp [padLen]

theorem exec_pad_of_schemeOf_none {bs : Nat} {s : State} (h : schemeOf s.operands.padCode = none) :
    exec (.pad bs) s = .next (raiseError false .unsupportedPadding s) := by
  simp [exec, execPad, h]

theorem exec_pad_of_schemeOf_some {bs : Nat} {s : State} {sch : Scheme} (h : schemeOf s.operands.padCode = some sch) :
    exec (.pad bs) s = .next (padWith sch bs s) := by
  simp [exec, execPad, h]

theorem exec_unpad_of_schemeOf_none {bs : Nat} {s : State} (h : schemeOf s.operands.padCode = none) :
    exec (.unpad bs) s = .next (raiseError false .unsupportedPadding s) := by
  simp [exec, execUnpad, h]

theorem exec_unpad_of_schemeOf_some {bs : Nat} {s : State} {sch : Scheme} (h : schemeOf s.operands.padCode = some sch) :
    exec (.unpad bs) s = .next (unpadWith sch bs s) := by
  simp [exec, execUnpad, h]

/-- R118, R119: PAD and UNPAD fail on the scheme, then on the block size, then on the two ranges, DST's for `m` bytes. -/
theorem padding_failsWith {i : Instr} {bs m : Nat} {s : State} {e : Byte}
    (hi : endsOperation i = false)
    (hnone : schemeOf s.operands.padCode = none → exec i s = .next (raiseError false .unsupportedPadding s))
    (hsome : ∀ sch, schemeOf s.operands.padCode = some sch → ∃ ok, exec i s = .next (afterChecks false
      [(decide (bs = 0), .invalidBlockSize),
       (!inBuf s.operands.srcN s.operands.lenN || !inBuf s.operands.dstN m, .addressError)] ok s))
    (he : e =
      (if 3 < s.operands.padCode.toNat then 0x06
       else if bs = 0 then 0x04
       else if Config.bufSize < s.operands.srcN + s.operands.lenN ∨ Config.bufSize < s.operands.dstN + m then 0x0B
       else 0x00)) (hne : e ≠ 0x00) : failsWith i e s := by
  simp only [← schemeOf_eq_none_iff] at he
  cases hs : schemeOf s.operands.padCode with
  | none =>
    rw [he, if_pos hs]
    exact failsWith_of_raiseError (hi ▸ hnone hs)
  | some sch =>
    obtain ⟨ok, hexec⟩ := hsome sch hs
    refine failsWith_of_checksCode (hi ▸ hexec) ?_ hne
    simp [he, hs, inBuf, errorCode]

/-- R118: with every check passed, the padded data goes to DST and its filler is drawn. -/
theorem exec_pad_of_checks {bs : Nat} {s : State} {sch : Scheme} (hs : schemeOf s.operands.padCode = some sch)
    (hbs : bs ≠ 0) (hsrc : s.operands.srcN + s.operands.lenN ≤ Config.bufSize)
    (hdst : s.operands.dstN + (s.operands.lenN + padLen sch s.operands.lenN bs) ≤ Config.bufSize) :
    exec (.pad bs) s = .next (complete (s.operands.lenN + padLen sch s.operands.lenN bs)
      (bufWrite { s with draws := s.draws + padDraws sch s.operands.lenN bs } s.operands.dstN
        (padBytes sch (bufRead s s.operands.srcN s.operands.lenN) bs
          (drawBytes s.draws (padDraws sch s.operands.lenN bs))))) := by
  rw [exec_pad_of_schemeOf_some hs, padWith, Laws.afterChecks_pass (by simp [firstError, inBuf, hbs, hsrc, hdst])]

/-- Settles O30: the checks in their order, and the padded data with its draws once they pass. -/
theorem padCommand : Obligations.PadCommand := by
  refine ⟨Laws.Row.pad, fun bs s e he hne => ?errors, fun bs s sch n out hs hbs hn hsrc hdst hout => ⟨?length, ?effect⟩⟩
  case errors =>
    refine padding_failsWith rfl exec_pad_of_schemeOf_none (fun sch hs => ?_) (by rw [he, Nat.add_assoc]) hne
    rw [← padLen_of_schemeOf hs]
    exact ⟨_, exec_pad_of_schemeOf_some hs⟩
  case length =>
    rw [hout, Laws.padBytes_length _ _ _ _ (Nat.pos_of_ne_zero hbs) (by simp), Laws.bufRead_length, hn]
  case effect =>
    subst hn hout
    exact ⟨_, exec_pad_of_checks hs hbs hsrc hdst, rfl, storedAt_complete (storedAt_bufWrite ..) _⟩

/-- R119: with every check passed, the unpadded data goes to DST. -/
theorem exec_unpad_of_checks {bs : Nat} {s : State} {sch : Scheme} (hs : schemeOf s.operands.padCode = some sch)
    (hbs : bs ≠ 0) (hsrc : s.operands.srcN + s.operands.lenN ≤ Config.bufSize)
    (hdst : s.operands.dstN + s.operands.lenN ≤ Config.bufSize) :
    exec (.unpad bs) s = .next (complete (unpadBytes sch (bufRead s s.operands.srcN s.operands.lenN) bs).length
      (bufWrite s s.operands.dstN (unpadBytes sch (bufRead s s.operands.srcN s.operands.lenN) bs))) := by
  rw [exec_unpad_of_schemeOf_some hs, unpadWith, Laws.afterChecks_pass (by simp [firstError, inBuf, hbs, hsrc, hdst])]

/-- Settles O31: the checks in their order, and the unpadded data once they pass. -/
theorem unpadCommand : Obligations.UnpadCommand := by
  refine ⟨Laws.Row.unpad, fun bs s e he hne => ?errors, fun bs s sch out hs hbs hsrc hdst hout => ⟨?length, ?effect⟩⟩
  case errors =>
    exact padding_failsWith rfl exec_unpad_of_schemeOf_none (fun _ hs => ⟨_, exec_unpad_of_schemeOf_some hs⟩) he hne
  case length =>
    rw [hout]
    exact (Laws.unpadBytes_length_le ..).trans (Laws.bufRead_length ..).le
  case effect =>
    subst hout
    exact ⟨_, exec_unpad_of_checks hs hbs hsrc hdst, rfl, storedAt_complete (storedAt_bufWrite ..) _⟩

end Sys2Proof.Proofs

/-! One block in each mode, and the modes with one function for both directions
(43_modes.md R126 to R132, R136). -/

namespace Sys2Proof.Proofs

open Machine

/-- R131: the counter is added to the last 8 bytes of the IV mod 2^64. -/
theorem ctrBlock_eq (iv : Bytes) (le : Bool) (b : Nat) (k : BitVec 64) :
    ctrBlock iv le b k =
      if le then iv.take (b - 8) ++ toLE 8 ((leNat (iv.drop (b - 8)) + k.toNat) % 2 ^ 64)
      else iv.take (b - 8) ++ toBE 8 ((beNat (iv.drop (b - 8)) + k.toNat) % 2 ^ 64) := by
  simp only [ctrBlock, BitVec.toNat_add, BitVec.toNat_ofNat, Nat.mod_add_mod]

/-- R132: the seed takes the low 32 bits of the block count. -/
theorem rdMask_eq (iv : Bytes) (b : Nat) (k : BitVec 64) :
    rdMask iv b k = rdPrng (BitVec.ofNat 32 (leNat (iv.take 4)) ^^^ BitVec.ofNat 32 k.toNat) b := by
  rw [rdMask, rdSeed, BitVec.ofNat_toNat]

/-- R136: OFB and CTR mask a block with the same bytes in both directions. -/
theorem opBlock_symmetric {c : ModeCtx} (hmode : c.mode = .ofb ∨ c.mode = .ctr) (k : KeySchedule) (dir : Bool) :
    opBlock k c dir = opBlock k c false := by
  funext r x
  rcases hmode with hm | hm <;> cases dir <;> simp [opBlock, encBlockCore, decBlockCore, hm]

/-- Settles O43: the block functions are the mode rules; only the counter and the seed are spelled another way. -/
theorem modeBlockRules : Obligations.ModeBlockRules := by
  intro k iv le b r x
  rw [← ctrBlock_eq, ← rdMask_eq]
  refine ⟨⟨rfl, rfl⟩, ⟨rfl, rfl⟩, ⟨rfl, rfl⟩, ⟨rfl, rfl⟩, fun dir => ?ofb, fun dir => ?ctr, rfl, rfl⟩
  case ofb =>
    rw [opBlock_symmetric (.inl rfl)]
    rfl
  case ctr =>
    rw [opBlock_symmetric (.inr rfl)]
    rfl

/-- Settles O46: the two directions run one block function over the same blocks. -/
theorem ofbAndCtrAreSymmetric : Obligations.OfbAndCtrAreSymmetric := by
  intro k c r x hmode
  rw [runChunk, runChunk, opBlock_symmetric hmode]

end Sys2Proof.Proofs

/-! The blocks of a chunk one after the other: chunking, lengths and the two directions (43_modes.md R134 to R136). -/

namespace Sys2Proof.Proofs

open Machine

/-- `x` is the first block of `x ++ y`: it has `b` bytes, or fewer when nothing follows it. -/
structure HeadBlock (b : Nat) (x y : Bytes) : Prop where
  pos : 0 < x.length
  le : x.length ≤ b
  full : y ≠ [] → x.length = b

theorem HeadBlock.of_length {b : Nat} {x : Bytes} (hb : 0 < b) (hx : x.length = b) (y : Bytes) : HeadBlock b x y :=
  ⟨hx ▸ hb, hx.le, fun _ => hx⟩

theorem HeadBlock.append_ne_nil {b : Nat} {x y : Bytes} (h : HeadBlock b x y) : x ++ y ≠ [] :=
  List.append_ne_nil_of_left_ne_nil (List.ne_nil_of_length_pos h.pos) y

theorem HeadBlock.of_lengths {b : Nat} {x y x' y' : Bytes} (h : HeadBlock b x y) (hx : x'.length = x.length)
    (hy : y'.length = y.length) : HeadBlock b x' y' where
  pos := hx ▸ h.pos
  le := hx ▸ h.le
  full hne := hx.trans (h.full fun hnil => hne (List.eq_nil_of_length_eq_zero (by rw [hy, hnil, List.length_nil])))

/-- Of whole blocks the first is whole, and so are the others. -/
theorem HeadBlock.whole {b : Nat} {x y : Bytes} (h : HeadBlock b x y) (hwhole : (x ++ y).length % b = 0) :
    x.length = b ∧ y.length % b = 0 := by
  rcases eq_or_ne y [] with rfl | hy
  · rw [List.append_nil] at hwhole
    exact ⟨h.le.antisymm (Nat.le_of_dvd h.pos (Nat.dvd_of_mod_eq_zero hwhole)), Nat.zero_mod b⟩
  · have hx := h.full hy
    exact ⟨hx, by simpa [hx] using hwhole⟩

/-- A string is empty, or a first block and a shorter string. -/
theorem block_induction {b : Nat} (hb : 0 < b) {P : Bytes → Prop} (nil : P [])
    (head : ∀ x y, HeadBlock b x y → P y → P (x ++ y)) (s : Bytes) : P s := by
  induction hn : s.length using Nat.strong_induction_on generalizing s with
  | _ n ih =>
    rcases eq_or_ne s [] with rfl | hs
    · exact nil
    · have hpos : 0 < s.length := List.length_pos_iff.mpr hs
      have hhead : HeadBlock b (s.take b) (s.drop b) := by
        refine ⟨by simp [hb, hpos], List.length_take_le .., fun hrest => ?_⟩
        have hlonger : 0 < (s.drop b).length := List.length_pos_iff.mpr hrest
        rw [List.length_drop] at hlonger
        rw [List.length_take]
        omega
      have hrest : P (s.drop b) := ih _ (by rw [List.length_drop]; omega) _ rfl
      simpa using head _ _ hhead hrest

theorem blocksOf_nil {b : Nat} (hb : 0 < b) : blocksOf b [] = [] := by
  simp [blocksOf, Nat.div_eq_of_lt (Nat.sub_lt hb Nat.one_pos)]

theorem blocksOf_headBlock {b : Nat} {x y : Bytes} (h : HeadBlock b x y) : blocksOf b (x ++ y) = x :: blocksOf b y := by
  obtain ⟨hpos, hle, hfull⟩ := h
  have hb : 0 < b := hpos.trans_le hle
  rcases eq_or_ne y [] with rfl | hy
  · have hone : (x.length + (b - 1)) / b = 1 := by
      rw [Nat.div_eq_iff hb]
      omega
    rw [blocksOf_nil hb]
    simp [blocksOf, hone, List.take_of_length_le hle]
  · have hx := hfull hy
    have hcount : ((x ++ y).length + (b - 1)) / b = (y.length + (b - 1)) / b + 1 := by
      rw [List.length_append, hx, Nat.add_assoc, Nat.add_div_left _ hb]
    rw [blocksOf, hcount, List.range_succ_eq_map, List.map_cons, List.map_map]
    congr 1
    · simp [← hx]
    · refine List.map_congr_left fun t _ => ?_
      rw [Function.comp_apply, Nat.succ_mul, Nat.add_comm, ← hx, List.drop_length_add_append]

theorem blocksOf_append {b : Nat} (hb : 0 < b) {x : Bytes} (hwhole : x.length % b = 0) (y : Bytes) :
    blocksOf b (x ++ y) = blocksOf b x ++ blocksOf b y := by
  induction x using block_induction hb with
  | nil => simp [blocksOf_nil hb]
  | head x rest h ih =>
    obtain ⟨hx, hrest⟩ := h.whole hwhole
    rw [List.append_assoc, blocksOf_headBlock (.of_length hb hx _), blocksOf_headBlock h, ih hrest, List.cons_append]

/-- Settles O45: the blocks of x ‖ y are those of x and then those of y. -/
theorem chunkingDoesNotMatter : Obligations.ChunkingDoesNotMatter := by
  intro k c dir r x y hb hwhole
  rw [runChunk, blocksOf_append hb hwhole, Laws.runBlocks_append]
  rfl

theorem runChunk_nil {c : ModeCtx} (hb : 0 < c.b) (k : KeySchedule) (dir : Bool) (r : OpRegs) :
    runChunk k c dir r [] = ([], r) := by
  rw [runChunk, blocksOf_nil hb, Laws.runBlocks_nil]

/-- R134, R135: the first block of a chunk, and the others from the registers it leaves. -/
theorem runChunk_headBlock {c : ModeCtx} {x y : Bytes} (h : HeadBlock c.b x y) (k : KeySchedule) (dir : Bool)
    (r : OpRegs) :
    runChunk k c dir r (x ++ y) =
      ((opBlock k c dir r x).1 ++ (runChunk k c dir (opBlock k c dir r x).2 y).1,
        (runChunk k c dir (opBlock k c dir r x).2 y).2) := by
  rw [runChunk, blocksOf_headBlock h, Laws.runBlocks_cons]
  rfl

theorem algBlockSize_pos (a : Alg) : 0 < a.blockSize := by cases a <;> decide

/-! The output of a chunk has the length of its input -/

theorem xorTrunc_length {x k : Bytes} (h : x.length ≤ k.length) : (xorTrunc x k).length = x.length := by
  simp [xorTrunc, truncBytes, h]

/-- A block mode enciphers whole blocks, and a stream mode has mask bytes for all of its input. -/
theorem encBlockCore_length {e : Bytes → Bytes} {c : ModeCtx} {r : OpRegs} {x : Bytes} (he : ∀ y, (e y).length = c.b)
    (hle : x.length ≤ c.b) (hwhole : c.mode.isBlock = true → x.length = c.b) :
    (encBlockCore e c r x).1.length = x.length := by
  have hstream (z : Bytes) : (xorTrunc x (e z)).length = x.length := xorTrunc_length (hle.trans (he z).ge)
  unfold encBlockCore
  cases hm : c.mode with
  | cfb | ofb | ctr => exact hstream _
  | ecb | cbc | pcbc | randomDelta => exact (he _).trans (hwhole (by rw [hm]; rfl)).symm

/-- Decryption in CBC and PCBC masks with the registers, so they must have the length of a block. -/
theorem decBlockCore_length {e d : Bytes → Bytes} {c : ModeCtx} {r : OpRegs} {x : Bytes} (he : ∀ y, (e y).length = c.b)
    (hd : ∀ y, (d y).length = c.b) (hr : RegsSized c.b r) (hle : x.length ≤ c.b)
    (hwhole : c.mode.isBlock = true → x.length = c.b) : (decBlockCore e d c r x).1.length = x.length := by
  obtain ⟨hfb, hpp, hpcr⟩ := hr
  have hstream (z : Bytes) : (xorTrunc x (e z)).length = x.length := xorTrunc_length (hle.trans (he z).ge)
  unfold decBlockCore
  cases hm : c.mode with
  | cfb | ofb | ctr => exact hstream _
  | ecb => exact (hd _).trans (hwhole (by rw [hm]; rfl)).symm
  | cbc | pcbc | randomDelta => simp [hd, hfb, hpp, hpcr, hwhole (by rw [hm]; rfl)]

/-- Encryption asks nothing of the registers it starts from. -/
theorem opBlock_length {a : Alg} {key : Bytes} {c : ModeCtx} {dir : Bool} {r : OpRegs} {x : Bytes}
    (hb : c.b = a.blockSize) (hr : dir = true → RegsSized c.b r) (hle : x.length ≤ c.b)
    (hwhole : c.mode.isBlock = true → x.length = c.b) :
    (opBlock (scheduleOf a key) c dir r x).1.length = x.length := by
  have he (y : Bytes) : (encryptBlock (scheduleOf a key) y).length = c.b := by rw [hb, Laws.encryptBlock_length]
  have hd (y : Bytes) : (decryptBlock (scheduleOf a key) y).length = c.b := by rw [hb, Laws.decryptBlock_length]
  cases dir
  · exact encBlockCore_length he hle hwhole
  · exact decBlockCore_length he hd (hr rfl) hle hwhole

/-- The registers keep their length from block to block, for only the last block can be short. -/
theorem runChunk_length {a : Alg} {key : Bytes} {c : ModeCtx} {dir : Bool} {r : OpRegs} {x : Bytes}
    (hb : c.b = a.blockSize) (hr : dir = true → x ≠ [] → RegsSized c.b r)
    (hwhole : c.mode.isBlock = true → x.length % c.b = 0) :
    (runChunk (scheduleOf a key) c dir r x).1.length = x.length := by
  have hpos : 0 < c.b := hb ▸ algBlockSize_pos a
  induction x using block_induction hpos generalizing r with
  | nil => rw [runChunk_nil hpos]
  | head x y h ih =>
    have hsized (hdir : dir = true) : RegsSized c.b r := hr hdir h.append_ne_nil
    have hhead := opBlock_length (key := key) hb hsized h.le fun hm => (h.whole (hwhole hm)).1
    have hrest := ih (r := (opBlock (scheduleOf a key) c dir r x).2)
      (fun hdir hy => opBlock_sized dir hb (hsized hdir) (h.full hy)) fun hm => (h.whole (hwhole hm)).2
    rw [runChunk_headBlock h, List.length_append, hhead, hrest, List.length_append]

/-! Decryption undoes encryption -/

theorem xorBytes_xorBytes {x k : Bytes} (h : x.length ≤ k.length) : xorBytes (xorBytes x k) k = x := by
  induction x generalizing k with
  | nil => rfl
  | cons a x ih =>
    obtain _ | ⟨b, k⟩ := k
    · simp at h
    · have hrest := ih (Nat.le_of_succ_le_succ h)
      simp only [xorBytes, List.zipWith_cons_cons, BitVec.xor_assoc, BitVec.xor_self, BitVec.xor_zero] at hrest ⊢
      rw [hrest]

theorem xorTrunc_xorTrunc {x k : Bytes} (h : x.length ≤ k.length) : xorTrunc (xorTrunc x k) k = x := by
  rw [xorTrunc, xorTrunc_length h, xorTrunc, xorBytes_xorBytes (by simp [truncBytes, h])]

/-- R136, for one block: the stream modes mask twice with the same bytes, the block modes undo the mask and E. -/
theorem decBlockCore_encBlockCore {e d : Bytes → Bytes} {c : ModeCtx} {r : OpRegs} {x : Bytes}
    (he : ∀ y, (e y).length = c.b) (hde : ∀ y, y.length = c.b → d (e y) = y) (hr : RegsSized c.b r)
    (hle : x.length ≤ c.b) (hwhole : c.mode.isBlock = true → x.length = c.b) :
    decBlockCore e d c r (encBlockCore e c r x).1 = (x, (encBlockCore e c r x).2) := by
  obtain ⟨hfb, hpp, hpcr⟩ := hr
  have hstream (z : Bytes) : xorTrunc (xorTrunc x (e z)) (e z) = x := xorTrunc_xorTrunc (hle.trans (he z).ge)
  have hblock (hm : c.mode.isBlock = true) (mask : Bytes) (hmask : mask.length = c.b) :
      xorBytes (d (e (xorBytes x mask))) mask = x := by
    rw [hde _ (by simp [hwhole hm, hmask]), xorBytes_xorBytes (hle.trans hmask.ge)]
  unfold encBlockCore decBlockCore
  cases hm : c.mode with
  | cfb | ofb | ctr => simp [hstream]
  | ecb => simp [hde x (hwhole (by rw [hm]; rfl))]
  | cbc | pcbc | randomDelta => simp [hblock (by rw [hm]; rfl), hfb, hpp, hpcr]

theorem opBlock_true_opBlock_false {a : Alg} {key : Bytes} {c : ModeCtx} {r : OpRegs} {x : Bytes}
    (hb : c.b = a.blockSize) (hr : RegsSized c.b r) (hle : x.length ≤ c.b)
    (hwhole : c.mode.isBlock = true → x.length = c.b) :
    opBlock (scheduleOf a key) c true r (opBlock (scheduleOf a key) c false r x).1 =
      (x, (opBlock (scheduleOf a key) c false r x).2) := by
  have he (y : Bytes) : (encryptBlock (scheduleOf a key) y).length = c.b := by rw [hb, Laws.encryptBlock_length]
  have hde (y : Bytes) (hy : y.length = c.b) :
      decryptBlock (scheduleOf a key) (encryptBlock (scheduleOf a key) y) = y :=
    (blockCipherIsInverted a key y (hy.trans hb)).1
  exact congrArg countBlock (decBlockCore_encBlockCore he hde hr hle hwhole)

/-- The blocks of a chunk's encryption are the encrypted blocks, so they are decrypted one by one. -/
theorem runChunk_true_runChunk_false {a : Alg} {key : Bytes} {c : ModeCtx} {r : OpRegs} {x : Bytes}
    (hb : c.b = a.blockSize) (hr : x ≠ [] → RegsSized c.b r) (hwhole : c.mode.isBlock = true → x.length % c.b = 0) :
    runChunk (scheduleOf a key) c true r (runChunk (scheduleOf a key) c false r x).1 =
      (x, (runChunk (scheduleOf a key) c false r x).2) := by
  have hpos : 0 < c.b := hb ▸ algBlockSize_pos a
  induction x using block_induction hpos generalizing r with
  | nil => simp only [runChunk_nil hpos]
  | head x y h ih =>
    have hsized : RegsSized c.b r := hr h.append_ne_nil
    have hx (hm : c.mode.isBlock = true) : x.length = c.b := (h.whole (hwhole hm)).1
    have hy (hm : c.mode.isBlock = true) : y.length % c.b = 0 := (h.whole (hwhole hm)).2
    have hhead := opBlock_true_opBlock_false (key := key) hb hsized h.le hx
    have hrest := ih (r := (opBlock (scheduleOf a key) c false r x).2)
      (fun hne => opBlock_sized false hb hsized (h.full hne)) hy
    have hcut : HeadBlock c.b (opBlock (scheduleOf a key) c false r x).1
        (runChunk (scheduleOf a key) c false (opBlock (scheduleOf a key) c false r x).2 y).1 :=
      h.of_lengths (opBlock_length hb nofun h.le hx) (runChunk_length hb nofun hy)
    rw [runChunk_headBlock h, runChunk_headBlock hcut, hhead, hrest]

/-- Settles O44: R136's law, over the blocks of the chunk. -/
theorem decryptionUndoesEncryptionInEveryMode : Obligations.DecryptionUndoesEncryptionInEveryMode := by
  rintro a key iv x m le r c rfl - hfb hpp hpcr hwhole
  exact runChunk_true_runChunk_false rfl (fun _ => ⟨hfb, hpp, hpcr⟩) hwhole

/-! The feedback register of CBC (R127) -/

theorem opBlock_cbc_fb {c : ModeCtx} (hm : c.mode = .cbc) (k : KeySchedule) (r : OpRegs) (x : Bytes) :
    (opBlock k c false r x).2.fb = (opBlock k c false r x).1 ∧ (opBlock k c true r x).2.fb = x := by
  simp [opBlock, encBlockCore, decBlockCore, hm]

theorem runChunk_block {c : ModeCtx} {x : Bytes} (hb : 0 < c.b) (hx : x.length = c.b) (k : KeySchedule) (dir : Bool)
    (r : OpRegs) : runChunk k c dir r x = opBlock k c dir r x := by
  simpa [runChunk_nil hb] using runChunk_headBlock (.of_length hb hx []) k dir r

/-- R127: the last block is a chunk of its own, and FB is what it leaves. -/
theorem runChunk_cbc_fb {a : Alg} {key : Bytes} {c : ModeCtx} (hm : c.mode = .cbc) (hb : c.b = a.blockSize) (r : OpRegs)
    {init last : Bytes} (hinit : init.length % c.b = 0) (hlast : last.length = c.b) :
    (runChunk (scheduleOf a key) c false r (init ++ last)).2.fb =
      (runChunk (scheduleOf a key) c false r (init ++ last)).1.drop init.length ∧
    (runChunk (scheduleOf a key) c true r (init ++ last)).2.fb = last := by
  have hpos : 0 < c.b := hb ▸ algBlockSize_pos a
  have hout : (runChunk (scheduleOf a key) c false r init).1.length = init.length :=
    runChunk_length hb (fun hdir => nomatch hdir) fun _ => hinit
  rw [chunkingDoesNotMatter _ _ _ _ _ _ hpos hinit, chunkingDoesNotMatter _ _ _ _ _ _ hpos hinit,
    runChunk_block hpos hlast, runChunk_block hpos hlast, List.drop_left' hout]
  exact ⟨(opBlock_cbc_fb hm ..).1, (opBlock_cbc_fb hm ..).2⟩

/-- Settles O47: n blocks, and then the last one. -/
theorem cbcFeedbackIsTheLastCiphertextBlock : Obligations.CbcFeedbackIsTheLastCiphertextBlock := by
  intro a key iv x le r n hlen
  have hinit : (x.take (n * a.blockSize)).length = n * a.blockSize := by simp [hlen, Nat.succ_mul]
  have hlast : (x.drop (n * a.blockSize)).length = a.blockSize := by simp [hlen, Nat.succ_mul]
  have hfb := runChunk_cbc_fb (key := key) (c := ⟨.cbc, iv, le, a.blockSize⟩) rfl rfl r
    (by rw [hinit, Nat.mul_mod_left]) hlast
  rwa [List.take_append_drop, hinit] at hfb

end Sys2Proof.Proofs

/-! The command CTX (43_modes.md R121). -/

namespace Sys2Proof.Proofs

open Machine

/-- Code 7 of CTRL.MODE names no mode, and code 0 alone names ECB (10_state.md R21). -/
theorem modeOf_cases (c : BitVec 3) :
    (c = 7 ∧ modeOf c = none) ∨ (c ≠ 7 ∧ ∃ m, modeOf c = some m ∧ (c = 0 ↔ m = .ecb)) := by
  revert c
  decide

theorem exec_ctx_of_unkeyed {s : State} (hk : s.keyed = false) :
    exec .ctx s = .next (raiseError true .stateError s) := by
  simp [exec, execCtx, hk]

theorem exec_ctx_of_modeOf_none {s : State} (hk : s.keyed = true) (hm : modeOf s.operands.modeCode = none) :
    exec .ctx s = .next (raiseError true .unsupportedMode s) := by
  simp [exec, execCtx, hk, hm]

theorem exec_ctx_of_schemeOf_none {s : State} {m : Mode} (hk : s.keyed = true)
    (hm : modeOf s.operands.modeCode = some m) (hp : schemeOf s.operands.padCode = none) :
    exec .ctx s = .next (raiseError true .unsupportedPadding s) := by
  simp [exec, execCtx, hk, hm, hp]

theorem exec_ctx_of_known {s : State} {m : Mode} {p : Scheme} (hk : s.keyed = true)
    (hm : modeOf s.operands.modeCode = some m) (hp : schemeOf s.operands.padCode = some p) :
    exec .ctx s = .next (ctxWith m p s) := by
  simp [exec, execCtx, hk, hm, hp]

/-- R121: a legal mode and scheme fail in ECB on an IV given, else on the IV's length and then its place. -/
theorem ctx_failsWith {s : State} {m : Mode} {p : Scheme} {e : Byte} (hk : s.keyed = true)
    (hm : modeOf s.operands.modeCode = some m) (hp : schemeOf s.operands.padCode = some p)
    (he : e =
      (if m = .ecb then (if s.operands.ivp then 0x03 else 0x00)
       else if s.operands.ivp = false ∨ s.operands.len2N ≠ s.blockSize then 0x03
       else if Config.bufSize < s.operands.src2N + s.blockSize then 0x0B
       else 0x00)) (hne : e ≠ 0x00) : failsWith .ctx e s := by
  refine failsWith_of_checksCode (exec_ctx_of_known hk hm hp) ?_ hne
  by_cases hecb : m = .ecb <;> simp [he, hecb, inBuf, errorCode]

/-- R121: in ECB with no IV given, CTX loads the context and reads neither SRC2 nor LEN2. -/
theorem exec_ctx_of_ecb {s : State} {p : Scheme} (hk : s.keyed = true) (hm : modeOf s.operands.modeCode = some .ecb)
    (hp : schemeOf s.operands.padCode = some p) (hivp : s.operands.ivp = false) :
    exec .ctx s = .next (complete 0
      { s with iv := none, lmode := .ecb, lpad := p, lctrle := s.operands.ctrle, ctxv := true, opact := false }) := by
  rw [exec_ctx_of_known hk hm hp, ctxWith, Laws.afterChecks_pass (by simp [firstError, hivp])]
  rfl

/-- R121: in the other modes CTX loads the context with the IV at SRC2. -/
theorem exec_ctx_of_iv {s : State} {m : Mode} {p : Scheme} (hk : s.keyed = true)
    (hm : modeOf s.operands.modeCode = some m) (hecb : m ≠ .ecb) (hp : schemeOf s.operands.padCode = some p)
    (hivp : s.operands.ivp = true) (hlen : s.operands.len2N = s.blockSize)
    (hsrc : s.operands.src2N + s.blockSize ≤ Config.bufSize) :
    exec .ctx s = .next (complete 0
      { s with iv := some (bufRead s s.operands.src2N s.blockSize), lmode := m, lpad := p,
               lctrle := s.operands.ctrle, ctxv := true, opact := false }) := by
  rw [exec_ctx_of_known hk hm hp, ctxWith,
    Laws.afterChecks_pass (by simp [firstError, inBuf, hecb, hivp, hlen, hsrc]), if_neg hecb]

/-- Settles O26: the checks in their order, and the context once they pass. -/
theorem ctxCommand : Obligations.CtxCommand := by
  refine ⟨rfl, fun s e he hne => ?errors, fun s p hk hp hmode hivp => ?ecb,
    fun s m p hk hp hm hecb hivp hlen hsrc => exec_ctx_of_iv hk hm hecb hp hivp hlen hsrc⟩
  case errors =>
    cases hk : s.keyed with
    | false =>
      rw [he, if_pos hk]
      exact failsWith_of_raiseError (exec_ctx_of_unkeyed hk)
    | true =>
      rw [if_neg (by simp [hk])] at he
      rcases modeOf_cases s.operands.modeCode with ⟨hcode, hm⟩ | ⟨hcode, m, hm, hecb⟩
      · rw [he, if_pos hcode]
        exact failsWith_of_raiseError (exec_ctx_of_modeOf_none hk hm)
      · rw [if_neg hcode] at he
        simp only [← schemeOf_eq_none_iff, hecb] at he
        cases hp : schemeOf s.operands.padCode with
        | none =>
          rw [he, if_pos hp]
          exact failsWith_of_raiseError (exec_ctx_of_schemeOf_none hk hm hp)
        | some p => exact ctx_failsWith hk hm hp (by simpa [hp] using he) hne
  case ecb => exact exec_ctx_of_ecb hk (by rw [hmode]; rfl) hp hivp

end Sys2Proof.Proofs

/-! The commands ENC and DEC (43_modes.md R123 to R125, R134, R135). -/

namespace Sys2Proof.Proofs

open Machine

/-- z of R123. -/
theorem ivOrZero_eq (s : State) : ivOrZero s = s.iv.getD (List.replicate s.blockSize 0) := by
  unfold ivOrZero
  cases s.iv <;> rfl

theorem encPadLen_eq (lf : Bool) (s : State) :
    encPadLen lf s =
      if s.lmode.isBlock = true ∧ lf = true then padLen s.lpad s.operands.lenN s.blockSize else 0 := by
  simp only [encPadLen, Bool.and_eq_true]

theorem encDraws_eq (lf : Bool) (s : State) :
    encDraws lf s =
      if s.lmode.isBlock = true ∧ lf = true then padDraws s.lpad s.operands.lenN s.blockSize else 0 := by
  simp only [encDraws, Bool.and_eq_true]

theorem encInput_eq (lf : Bool) (s : State) :
    encInput lf s =
      if s.lmode.isBlock = true ∧ lf = true
      then padBytes s.lpad (bufRead s s.operands.srcN s.operands.lenN) s.blockSize
        (drawBytes s.draws (padDraws s.lpad s.operands.lenN s.blockSize))
      else bufRead s s.operands.srcN s.operands.lenN := by
  simp only [encInput, encDraws, Bool.and_eq_true]
  split <;> rfl

theorem decOutput_eq (lf : Bool) (s : State) (y : Bytes) :
    decOutput lf s y = if s.lmode.isBlock = true ∧ lf = true then unpadBytes s.lpad y s.blockSize else y := by
  simp only [decOutput, Bool.and_eq_true]

/-- R123, R134, R135: on BEGIN or in an operation of its direction, a chunk leaves the operation open unless LAST. -/
theorem afterChunk_eq {bf dir : Bool} {s : State} (hop : bf = true ∨ (s.opact = true ∧ s.opdir = dir)) (lf : Bool)
    (r : OpRegs) :
    afterChunk lf bf dir r s =
      { s with fb := r.fb, pp := r.pp, pcr := r.pcr, blkidx := r.blk, opact := !lf, opdir := dir } := by
  have hopact : (s.opact || bf) = true := by rcases hop with hbf | ⟨hact, -⟩ <;> simp [*]
  have hopdir : (if bf then dir else s.opdir) = dir := by rcases hop with hbf | ⟨-, hdir⟩ <;> simp [*]
  rw [afterChunk, hopact, hopdir]
  cases lf <;> rfl

/-- R124: the code of an operation's own checks is StateError's, before the code of the checks that follow. -/
theorem checksCode_opChecks (bf dir : Bool) (s : State) (cs : List (Bool × ErrorKind)) :
    checksCode (opChecks bf dir s ++ cs) =
      if s.ctxv = false then 0x0A
      else if bf = false ∧ (s.opact = false ∨ s.opdir = !dir) then 0x0A
      else checksCode cs := by
  simp [opChecks, errorCode, Bool.eq_not]

/-- R124: the checks of an operation pass with a context, on BEGIN or in an operation of the same direction. -/
theorem firstError_opChecks {bf dir : Bool} {s : State} (hctxv : s.ctxv = true)
    (hop : bf = true ∨ (s.opact = true ∧ s.opdir = dir)) (cs : List (Bool × ErrorKind)) :
    firstError (opChecks bf dir s ++ cs) = firstError cs := by
  rcases hop with hbf | ⟨hact, hdir⟩ <;> simp [opChecks, firstError, *]

/-- Under the cipher invariant the schedule is that of a key, so a chunk's output has the length of its input. -/
theorem chunk_length {s : State} {bf dir : Bool} {x : Bytes} (hs : cipherInv s) (hctxv : s.ctxv = true)
    (hop : bf = true ∨ (s.opact = true ∧ s.opdir = dir))
    (hwhole : s.lmode.isBlock = true → x.length % s.blockSize = 0) :
    (runChunk s.sched (modeCtx s) dir (startRegs bf s) x).1.length = x.length := by
  have hsized : RegsSized s.blockSize (startRegs bf s) := startRegs_sized hs (hop.imp_right And.left)
  obtain ⟨hkey, hctx, -⟩ := hs
  rw [(hkey (hctx hctxv).1).2]
  exact runChunk_length rfl (fun _ _ => hsized) hwhole

/-- R134: with every check passed, the chunk is encrypted to DST and its filler is drawn. -/
theorem exec_enc_of_checks {lf bf : Bool} {s : State} (hctxv : s.ctxv = true)
    (hop : bf = true ∨ (s.opact = true ∧ s.opdir = false)) (hlen : lf = true ∨ s.operands.lenN % s.blockSize = 0)
    (hsrc : s.operands.srcN + s.operands.lenN ≤ Config.bufSize)
    (hdst : s.operands.dstN + (s.operands.lenN + encPadLen lf s) ≤ Config.bufSize) {out : Bytes × OpRegs}
    (hout : out = runChunk s.sched (modeCtx s) false (startRegs bf s) (encInput lf s)) :
    exec (.enc lf bf) s = .next (complete (s.operands.lenN + encPadLen lf s)
      (bufWrite
        { s with fb := out.2.fb, pp := out.2.pp, pcr := out.2.pcr, blkidx := out.2.blk, opact := !lf, opdir := false,
                 draws := s.draws + encDraws lf s } s.operands.dstN out.1)) := by
  subst hout
  refine congrArg Host.Outcome.next ((Laws.afterChecks_pass ?_ ..).trans ?_)
  · rw [firstError_opChecks hctxv hop]
    rcases hlen with hl | hl <;> simpa [firstError, inBuf, hl, hsrc] using hdst
  · rw [afterChunk_eq (s := { s with draws := s.draws + encDraws lf s }) hop]

/-- Settles O28: the checks in their order, and the encrypted chunk with its draws once they pass. -/
theorem encCommand : Obligations.EncCommand := by
  refine ⟨Laws.Row.enc, fun lf bf s e he hne => ?errors,
    fun lf bf s pad x out z hs hctxv hop hlen hpad hsrc hdst hx hz hout => ?effect⟩
  case errors =>
    refine failsWith_of_checksCode rfl ?_ hne
    rw [checksCode_opChecks, he, ← encPadLen_eq]
    simp [inBuf, errorCode]
  case effect =>
    rw [← encPadLen_eq] at hpad
    rw [← encInput_eq] at hx
    rw [← ivOrZero_eq] at hz
    rw [← encDraws_eq]
    subst hpad hx hz
    have hlength : out.1.length = (encInput lf s).length := by
      rw [hout]
      exact chunk_length hs hctxv hop (encInput_whole_of_block hlen)
    exact ⟨hlength.trans (encInput_length lf s), _, exec_enc_of_checks hctxv hop hlen hsrc hdst hout, rfl,
      storedAt_complete (storedAt_bufWrite ..) _⟩

/-- R135: with every check passed, the chunk is decrypted, and unpadded if it is the LAST of a block mode, to DST. -/
theorem exec_dec_of_checks {lf bf : Bool} {s : State} (hctxv : s.ctxv = true)
    (hop : bf = true ∨ (s.opact = true ∧ s.opdir = true))
    (hlen : (s.lmode.isBlock = false ∧ lf = true) ∨ s.operands.lenN % s.blockSize = 0)
    (hsrc : s.operands.srcN + s.operands.lenN ≤ Config.bufSize)
    (hdst : s.operands.dstN + s.operands.lenN ≤ Config.bufSize) {out : Bytes × OpRegs}
    (hout : out = runChunk s.sched (modeCtx s) true (startRegs bf s) (bufRead s s.operands.srcN s.operands.lenN)) :
    exec (.dec lf bf) s = .next (complete (decOutput lf s out.1).length
      (bufWrite
        { s with fb := out.2.fb, pp := out.2.pp, pcr := out.2.pcr, blkidx := out.2.blk, opact := !lf, opdir := true }
        s.operands.dstN (decOutput lf s out.1))) := by
  subst hout
  refine congrArg Host.Outcome.next ((Laws.afterChecks_pass ?_ ..).trans ?_)
  · rw [firstError_opChecks hctxv hop]
    rcases hlen with ⟨hm, hl⟩ | hl <;> simp [firstError, inBuf, *]
  · rw [afterChunk_eq hop]

/-- Settles O29: the checks in their order, and the decrypted chunk once they pass. -/
theorem decCommand : Obligations.DecCommand := by
  refine ⟨Laws.Row.dec, fun lf bf s e he hne => ?errors,
    fun lf bf s out z y hs hctxv hop hlen hsrc hdst hz hout hy => ?effect⟩
  case errors =>
    refine failsWith_of_checksCode rfl ?_ hne
    rw [checksCode_opChecks, he]
    simp [inBuf, errorCode]
  case effect =>
    rw [← ivOrZero_eq] at hz
    rw [← decOutput_eq] at hy
    subst hz hy
    have hlength : out.1.length = s.operands.lenN := by
      rw [hout]
      exact (chunk_length hs hctxv hop fun hm => by simpa [hm] using hlen).trans (Laws.bufRead_length ..)
    exact ⟨(decOutput_length_le ..).trans hlength.le, hlength, _, exec_dec_of_checks hctxv hop hlen hsrc hdst hout, rfl,
      storedAt_complete (storedAt_bufWrite ..) _⟩

end Sys2Proof.Proofs

/-! The modular-exponentiation engine is exact (44_dh_modexp.md R139). -/

namespace Sys2Proof.Proofs

open Machine

/-- Square-and-multiply: the accumulator still lacks the factor of the base to the exponent's remaining bits. -/
theorem modExpSteps_eq {n e : Nat} (he : e < 2 ^ n) (b m acc : Nat) :
    modExpSteps n b e m (acc % m) = acc * b ^ e % m := by
  induction n generalizing b e acc with
  | zero =>
    obtain rfl : e = 0 := by omega
    simp [modExpSteps]
  | succ n ih =>
    have hhalf : e / 2 < 2 ^ n := by omega
    have hsquare (c : Nat) : c * (b * b % m) ^ (e / 2) % m = c * b ^ (2 * (e / 2)) % m := by
      rw [Nat.pow_mul, Nat.pow_two, Nat.mul_mod, ← Nat.pow_mod, ← Nat.mul_mod]
    rw [modExpSteps]
    split
    next hodd =>
      have hbits : e = 2 * (e / 2) + 1 := by omega
      rw [Nat.mod_mul_mod, ih hhalf, hsquare, Nat.mul_assoc, ← pow_succ', ← hbits]
    next heven =>
      have hbits : e = 2 * (e / 2) := by omega
      rw [ih hhalf, hsquare, ← hbits]

/-- R139: the engine computes the power, for every base, exponent and modulus. -/
theorem modExp_eq (b e m : Nat) : modExp b e m = b ^ e % m := by
  rw [modExp, modExpSteps_eq Nat.lt_log2_self, Nat.one_mul, ← Nat.pow_mod]

/-- Settles O48: the engine's result is the power's residue, which is below the modulus. -/
theorem modExpIsExact : Obligations.ModExpIsExact := by
  refine ⟨fun b e m hm _ => ⟨modExp_eq b e m, ?bound⟩, modExp_eq 5 6 23, modExp_eq 19 6 23⟩
  case bound => exact Nat.le_sub_one_of_lt (modExp_lt b e (by omega))

/-- Settles O49: both secrets are g to the product of the two exponents. -/
theorem diffieHellmanAgrees : Obligations.DiffieHellmanAgrees := by
  intro p g xa xb _ _ _
  have hsecret (x y : Nat) : modExp (modExp g x p) y p = g ^ (x * y) % p := by
    rw [modExp_eq, modExp_eq, ← Nat.pow_mod, Nat.pow_mul]
  rw [hsecret, hsecret, Nat.mul_comm]

end Sys2Proof.Proofs

/-! TC is the minimal positive two's-complement encoding (44_dh_modexp.md R146). -/

namespace Sys2Proof.Proofs

open Machine

theorem tcBytes_length (s : Nat) : (tcBytes s).length = (s.log2 + 9) / 8 := Laws.toBE_length ..

/-- `Nat.log2_lt` also at 0, whose logarithm is 0: TC(0) has one byte like TC(1). -/
theorem log2_lt_iff {s k : Nat} (hk : 1 ≤ k) : s.log2 < k ↔ s < 2 ^ k := by
  rcases Nat.eq_zero_or_pos s with rfl | hs
  · simp [Nat.one_le_iff_ne_zero.mp hk, Nat.pos_iff_ne_zero]
  · exact Nat.log2_lt hs.ne'

/-- R146: the byte counts that leave room for a sign bit above s are those from the length of TC(s) on. -/
theorem tcBytes_length_le_iff {s n : Nat} (hn : 1 ≤ n) : (tcBytes s).length ≤ n ↔ s < 2 ^ (8 * n - 1) := by
  rw [← log2_lt_iff (by omega), tcBytes_length]
  omega

/-- Settles O50: the length of TC is the least that leaves a sign bit, so no bit of s is cut off. -/
theorem tcIsTheMinimalEncoding : Obligations.TcIsTheMinimalEncoding := by
  refine ⟨rfl, fun s => ?_⟩
  have hpos : 1 ≤ (tcBytes s).length := by
    rw [tcBytes_length]
    omega
  have hsign : s < 2 ^ (8 * (tcBytes s).length - 1) := (tcBytes_length_le_iff hpos).mp le_rfl
  refine ⟨?value, hpos, hsign, fun n hn => (tcBytes_length_le_iff hn).mpr⟩
  have hfits : s < 256 ^ (tcBytes s).length :=
    calc
      s < 2 ^ (8 * (tcBytes s).length - 1) := hsign
      _ ≤ 2 ^ (8 * (tcBytes s).length) := Nat.pow_le_pow_right Nat.two_pos (Nat.sub_le ..)
      _ = 256 ^ (tcBytes s).length := Nat.pow_mul ..
  rw [tcBytes_length] at hfits
  rw [tcBytes, beNat_toBE, Nat.mod_eq_of_lt hfits]

end Sys2Proof.Proofs

/-! The commands DHI, DHR, DHS and DHK (44_dh_modexp.md R142 to R145). -/

namespace Sys2Proof.Proofs

open Machine

/-- MODEXP_MAX_BYTES as the spec writes it out. -/
theorem modexpMaxBytes_eq : Config.modexpMaxBytes = 256 := rfl

/-- LEN as it is written to OUTLEN is LEN. -/
theorem ofNat_lenN (o : Operands) : BitVec.ofNat 32 o.lenN = o.len := BitVec.ofNat_toNat ..

/-- R142, R143: a new participant takes the next free draw as its exponent and publishes y at DST. -/
theorem newParticipant_published {i : Instr} {s : State} {p g plen : Nat}
    (h : exec i s = .next (newParticipant p g plen (drawExponent s.draws) (afterExponentDraw s))) :
    ∃ (x : BitVec 256) (y : Nat) (t : State), x = drawExponent s.draws ∧ 1 ≤ x.toNat ∧ x.toNat ≤ 2 ^ 255 - 1 ∧
      y = g ^ x.toNat % p ∧ exec i s = .next t ∧
      t = { s with
            mem := t.mem
            dhp := p, dhg := g, plen := plen, dhx := x, dhy := y, dhv := true, secv := false, sreg := 0
            draws := s.draws + 1
            outlen := BitVec.ofNat 32 plen, errcode := 0, err := false, done := true, inflight := none } ∧
      storedAt s t s.operands.dstN (toBE plen y) := by
  obtain ⟨hx, hx'⟩ := drawExponent_range s.draws
  refine ⟨drawExponent s.draws, modExp g (drawExponent s.draws).toNat p, _, rfl, hx, hx', modExp_eq .., h, rfl, ?_⟩
  exact storedAt_complete (storedAt_bufWrite ..) plen

/-- R142: with DST in range, DHI makes an initiator of the fixed group. -/
theorem exec_dhi_of_checks {s : State} (hdst : s.operands.dstN + group5Len ≤ Config.bufSize) :
    exec .dhi s =
      .next (newParticipant group5Prime group5Gen group5Len (drawExponent s.draws) (afterExponentDraw s)) := by
  refine congrArg Host.Outcome.next (Laws.afterChecks_pass ?_ ..)
  simp [firstError, inBuf, hdst]

/-- Settles O34: the one check, and a participant of the fixed group once it passes. -/
theorem dhiCommand : Obligations.DhiCommand := by
  refine ⟨rfl, fun s hdst => ?error, fun s hdst => newParticipant_published (exec_dhi_of_checks hdst)⟩
  case error =>
    have hdst : Config.bufSize < s.operands.dstN + group5Len := hdst
    exact failsWith_of_checksCode rfl (by simp [inBuf, errorCode, hdst]) (by decide)

/-- R143: with every check passed, DHR makes a responder of the group the host gives. -/
theorem exec_dhr_of_checks {s : State} {p g : Nat} (hpos : 1 ≤ s.operands.lenN)
    (hlen : s.operands.lenN ≤ Config.modexpMaxBytes) (hlen2 : s.operands.len2N ≤ Config.modexpMaxBytes)
    (hsrc : s.operands.srcN + s.operands.lenN ≤ Config.bufSize)
    (hsrc2 : s.operands.src2N + s.operands.len2N ≤ Config.bufSize)
    (hdst : s.operands.dstN + s.operands.lenN ≤ Config.bufSize)
    (hp : p = beNat (bufRead s s.operands.srcN s.operands.lenN))
    (hg : g = beNat (bufRead s s.operands.src2N s.operands.len2N)) (hgroup : 3 ≤ p) :
    exec .dhr s = .next (newParticipant p g s.operands.lenN (drawExponent s.draws) (afterExponentDraw s)) := by
  subst hp hg
  refine congrArg Host.Outcome.next (Laws.afterChecks_pass ?_ ..)
  simp [firstError, inBuf, Nat.ne_of_gt hpos, hlen.not_gt, hlen2.not_gt, hsrc, hsrc2, hdst, hgroup.not_gt]

/-- Settles O35: the checks in their order, and a participant of the host's group once they pass. -/
theorem dhrCommand : Obligations.DhrCommand := by
  refine ⟨rfl, fun s e he hne => ?errors, fun s p g hpos hlen hlen2 hsrc hsrc2 hdst hp hg hgroup => ?effect⟩
  case errors =>
    rw [← modexpMaxBytes_eq] at he
    exact failsWith_of_checksCode rfl (by simp [he, inBuf, errorCode, or_assoc]) hne
  case effect =>
    rw [← ofNat_lenN]
    exact newParticipant_published (exec_dhr_of_checks hpos hlen hlen2 hsrc hsrc2 hdst hp hg hgroup)

/-- R144: with every check passed, DHS keeps the secret in SREG and stores it at DST. -/
theorem exec_dhs_of_checks {s : State} {sec : Nat} (hdhv : s.dhv = true)
    (hlen : s.operands.lenN ≤ Config.modexpMaxBytes) (hsrc : s.operands.srcN + s.operands.lenN ≤ Config.bufSize)
    (hdst : s.operands.dstN + s.plen ≤ Config.bufSize)
    (hsec : sec = beNat (bufRead s s.operands.srcN s.operands.lenN) ^ s.dhx.toNat % s.dhp) :
    exec .dhs s = .next (complete s.plen
      (bufWrite { s with sreg := sec, secv := true } s.operands.dstN (toBE s.plen sec))) := by
  rw [← modExp_eq] at hsec
  subst hsec
  refine congrArg Host.Outcome.next (Laws.afterChecks_pass ?_ ..)
  simp [firstError, inBuf, hdhv, hlen, hsrc, hdst]

/-- Settles O36: the checks in their order, and the exact power once they pass. -/
theorem dhsCommand : Obligations.DhsCommand := by
  refine ⟨rfl, fun s e he hne => ?errors, fun s sec hdhv hlen hsrc hdst hsec => ?effect⟩
  case errors =>
    rw [← modexpMaxBytes_eq] at he
    exact failsWith_of_checksCode rfl (by simp [he, inBuf, errorCode]) hne
  case effect =>
    exact ⟨_, exec_dhs_of_checks hdhv hlen hsrc hdst hsec, rfl, storedAt_complete (storedAt_bufWrite ..) _⟩

/-- R145: with every check passed, DHK stores the derived key at DST. -/
theorem exec_dhk_of_checks {s : State} {out : Bytes} (hsecv : s.secv = true) (hlen : s.operands.lenN ≤ 32)
    (hdst : s.operands.dstN + s.operands.lenN ≤ Config.bufSize)
    (hout : out = (sha256 (kdfInput s.operands.kdfle s.sreg)).take s.operands.lenN) :
    exec .dhk s = .next (complete s.operands.lenN (bufWrite s s.operands.dstN out)) := by
  subst hout
  refine congrArg Host.Outcome.next (Laws.afterChecks_pass ?_ ..)
  simp [firstError, inBuf, hsecv, hlen, hdst]

/-- Settles O37: the checks in their order, and LEN bytes of the digest once they pass. -/
theorem dhkCommand : Obligations.DhkCommand := by
  refine ⟨rfl, fun s e he hne => ?errors, fun s out hsecv hlen hdst hout => ⟨?length, ?effect⟩⟩
  case errors => exact failsWith_of_checksCode rfl (by simp [he, inBuf, errorCode]) hne
  case length => rw [hout, List.length_take, Laws.sha256_length, Nat.min_eq_left hlen]
  case effect =>
    rw [← ofNat_lenN]
    exact ⟨_, exec_dhk_of_checks hsecv hlen hdst hout, rfl, storedAt_complete (storedAt_bufWrite ..) _⟩

end Sys2Proof.Proofs

/-! The commands NOP and SRST (45_system.md R151, R152). -/

namespace Sys2Proof.Proofs

open Machine

/-- The encoder's word of a well-formed command is the only word that decodes to it (R68). -/
theorem decode_eq_ok_iff {i : Instr} (hi : i.wellFormed = true) (w : Word) : decode w = .ok i ↔ w = encode i :=
  ⟨fun h => (encode_of_decode h).symm, fun h => decode_of_encode_eq h.symm hi⟩

/-- Settles O23: the word is the encoder's only word of NOP, and completion is all that NOP does. -/
theorem nopCommand : Obligations.NopCommand := by
  refine ⟨fun w => ?word, fun s => ?effect⟩
  case word => exact decode_eq_ok_iff (i := .nop) rfl w
  case effect => exact Laws.execNop_eq s

/-- R152: a soft reset answers the reset state with the host registers, BUF, the completion fields and the host side kept. -/
theorem softReset_eq_reset (s : State) :
    softReset s =
      { State.reset with
        regs := s.regs, mem := s.mem
        outlen := s.outlen, errcode := s.errcode, done := s.done, err := s.err, inflight := s.inflight
        host := s.host, replies := s.replies, draws := s.draws, turns := s.turns, bufGen := s.bufGen } := rfl

/-- Settles O24: completion overwrites the completion fields that the soft reset kept. -/
theorem srstCommand : Obligations.SrstCommand := by
  refine ⟨rfl, fun s => ?effect⟩
  case effect =>
    calc
      exec .srst s = .next (complete 0 (softReset s)) := Laws.execSrst_eq s
      _ = _ := by rw [softReset_eq_reset]; rfl

end Sys2Proof.Proofs

/-! Errors and idleness: what a failed command writes, and that an idle core writes nothing (60_exceptions.md R160, R168). -/

namespace Sys2Proof.Proofs

open Machine

theorem engineStep_of_decode_error {s : State} {c : InFlight} {e : DecodeReject} (hc : s.inflight = some c)
    (he : decode c.word = .error e) : engineStep s = .next (raiseError false .illegalCommand s) := by
  simp [engineStep, hc, he]

/-- A word that fails to decode ends no operation, so of R160's writes OPACT's is left out (R69). -/
theorem raiseError_false_illegalCommand (s : State) :
    raiseError false .illegalCommand s =
      { s with outlen := 0, errcode := 0x01, err := true, done := true, inflight := none } := by
  simp [raiseError, errorCode]

/-- ERR tells the two ends of a command apart: only a raised error leaves it set (R158, R160). -/
theorem exec_err_raised {i : Instr} {s t : State} (h : exec i s = .next t) (herr : t.err = true) :
    ∃ e, t = raiseError (endsOperation i) e s := by
  rcases exec_ends h with ⟨-, hraised⟩ | ⟨n, u, -, rfl⟩
  · exact hraised
  · cases herr

/-- Settles O17: ERR is left set by a raised error only, and R69's error ends no operation. -/
theorem failedCommandWritesNothingElse : Obligations.FailedCommandWritesNothingElse := by
  refine ⟨fun i s t h herr => ?failed, fun s c e hc he => ?undecoded⟩
  case failed =>
    obtain ⟨e, rfl⟩ := exec_err_raised h herr
    exact ⟨(errorCode_range e).2, rfl⟩
  case undecoded => rw [engineStep_of_decode_error hc he, raiseError_false_illegalCommand]

theorem engineStep_of_idle {s : State} (hidle : s.inflight = none) : engineStep s = .next s := by
  simp [engineStep, hidle]

/-- Settles O6: with no access pending the engine moves, and it has nothing to run. -/
theorem idleCoreKeepsEveryState : Obligations.IdleCoreKeepsEveryState := fun _ hhost hidle =>
  (step_of_no_access hhost).trans (engineStep_of_idle hidle)

end Sys2Proof.Proofs

/-! The interrupt output (60_exceptions.md R163): raised by completion, lowered through DONE or through IRQEN. -/

namespace Sys2Proof.Proofs

open Machine

theorem irq_eq (s : State) : irq s = (s.regs.ctrl.getLsbD 16 && s.done) := rfl

theorem irq_of_done {s : State} (h : s.done = true) : irq s = s.regs.ctrl.getLsbD 16 := by simp [irq_eq, h]

theorem irq_of_not_done {s : State} (h : s.done = false) : irq s = false := by simp [irq_eq, h]

/-- Every command ends with DONE set and CTRL as it was. -/
theorem irq_of_exec {i : Instr} {s t : State} (h : exec i s = .next t) : irq t = s.regs.ctrl.getLsbD 16 := by
  obtain ⟨hregs, -⟩ := noCommandWritesTheHostsRegisters i s t h
  obtain ⟨t', h', -, hdone, -⟩ := everyCommandCompletes i s
  obtain rfl : t = t' := Host.Outcome.next.inj (h.symm.trans h')
  rw [irq_of_done hdone, hregs]

theorem irq_raiseError (b : Bool) (e : ErrorKind) (s : State) :
    irq (raiseError b e s) = s.regs.ctrl.getLsbD 16 := irq_of_done (Laws.raiseError_done b e s)

theorem irq_issue (w : Word) (s : State) : irq (issue w s) = false := irq_of_not_done rfl

/-- Bit 1 of a STATUS write clears DONE (10_state.md R24). -/
theorem irq_ackStatus {v : Word} (hv : v.getLsbD 1 = true) (s : State) : irq (ackStatus v s) = false :=
  irq_of_not_done (by simp [hv])

/-- IRQEN is not a reserved bit of CTRL (10_state.md R19). -/
theorem getLsbD_irqen_and_ctrlMask (v : Word) : (v &&& ctrlMask).getLsbD 16 = v.getLsbD 16 := by
  rw [BitVec.getLsbD_and, show ctrlMask.getLsbD 16 = true by decide, Bool.and_true]

theorem irq_regWrite_ctrl (v : Word) (s : State) : irq (regWrite 0x004 v s) = (v.getLsbD 16 && s.done) :=
  congrArg (· && s.done) (getLsbD_irqen_and_ctrlMask v)

/-- Settles O18: a completion of either kind sets DONE, and each of R163's three writes clears DONE or IRQEN. -/
theorem completionRaisesIrqWhenEnabled : Obligations.CompletionRaisesIrqWhenEnabled := by
  refine ⟨irq_eq, fun _ _ _ => irq_of_exec, fun s c e hc he => ?undecoded, fun s v hv => irq_ackStatus hv s,
    fun s w => irq_issue w s, fun s v hv => ?masked, rfl⟩
  case undecoded => exact ⟨_, engineStep_of_decode_error hc he, irq_raiseError ..⟩
  case masked => rw [irq_regWrite_ctrl, hv, Bool.false_and]

end Sys2Proof.Proofs

/-! Reset (70_reset_and_hazards.md R169, R170): the reset input's state, and the invariants it meets. -/

namespace Sys2Proof.Proofs

open Machine

theorem statusWord_reset : statusWord State.reset = 0 := by decide

/-- R170: ID has a constant, CMD and the reserved offsets read 0, and every other register has the reset value 0. -/
theorem regRead_reset (off : Nat) : regRead State.reset off = if off = 0 then 0x43570007 else 0 := by
  unfold regRead
  split
  case h_3 => exact statusWord_reset
  case h_13 => exact (if_neg ‹¬ off = 0›).symm
  all_goals rfl

/-- Settles O15: the reset input is the hard reset, whatever is in flight. -/
theorem resetInputGivesTheResetState : Obligations.ResetInputGivesTheResetState :=
  ⟨fun _ => rfl, regRead_reset, irq_of_not_done rfl⟩

theorem bufInv_reset : bufInv State.reset := ⟨Laws.reset_mem_wf, by simp⟩

/-- Settles O51: nothing is in flight, keyed or agreed, and nothing has been written. -/
theorem resetMeetsTheInvariants : Obligations.ResetMeetsTheInvariants :=
  ⟨bufInv_reset, windowInv_of_idle rfl (by decide) (by decide) nofun, cipherInv_of_unkeyed rfl rfl rfl rfl,
    rc4Inv_of_unkeyed List.length_replicate rfl, dhInv_of_absent rfl rfl⟩

end Sys2Proof.Proofs

/-! How both streaming loops cut a stream: whole chunks, and one last chunk (70_reset_and_hazards.md R173). -/

namespace Sys2Proof.Proofs

open Machine

/-- `cs` are the chunks of a loop that sends `init` in full chunks and then `final` as its last one. -/
inductive StreamCut : Bool → Bytes → Bytes → List Chunk → Prop
  | last (first : Bool) (final : Bytes) : StreamCut first [] final [⟨final, first, true⟩]
  | cons (first : Bool) {x init final : Bytes} {cs : List Chunk} (hx : x.length = 65536)
      (hrest : StreamCut false init final cs) : StreamCut first (x ++ init) final (⟨x, first, false⟩ :: cs)

section
variable {first : Bool} {init final : Bytes} {cs : List Chunk}

theorem StreamCut.flatMap_data (h : StreamCut first init final cs) : cs.flatMap Chunk.data = init ++ final := by
  induction h with
  | last => simp
  | cons _ _ _ ih => simp [ih]

theorem StreamCut.init_length (h : StreamCut first init final cs) : init.length % 65536 = 0 := by
  induction h with
  | last => rfl
  | cons _ hx _ ih => simp [hx, ih]

theorem StreamCut.exists_concat (h : StreamCut first init final cs) :
    ∃ heads c, cs = heads ++ [c] ∧ c.last = true ∧ c.data = final ∧
      ∀ x ∈ heads, x.last = false ∧ x.data.length = 65536 := by
  induction h with
  | last first final => exact ⟨[], _, rfl, rfl, rfl, by simp⟩
  | cons first hx _ ih =>
    obtain ⟨heads, c, rfl, hlast, hdata, hheads⟩ := ih
    exact ⟨_ :: heads, c, rfl, hlast, hdata, by simpa [hx] using hheads⟩

theorem StreamCut.head_first (h : StreamCut first init final cs) : cs.head?.map Chunk.first = some first := by
  cases h <;> rfl

theorem StreamCut.first_of_mem (h : StreamCut first init final cs) (hfirst : first = false) :
    ∀ x ∈ cs, x.first = false := by
  induction h with
  | last => simp [hfirst]
  | cons _ _ _ ih => simpa [hfirst] using ih rfl

theorem StreamCut.tail_first (h : StreamCut first init final cs) : ∀ x ∈ cs.tail, x.first = false := by
  cases h with
  | last => simp
  | cons _ _ hrest => exact hrest.first_of_mem rfl

/-- A list of chunks has one last chunk. -/
theorem StreamCut.final_unique {first' : Bool} {init' final' : Bytes} (h : StreamCut first init final cs)
    (h' : StreamCut first' init' final' cs) : final = final' := by
  obtain ⟨heads, c, rfl, -, rfl, -⟩ := h.exists_concat
  obtain ⟨heads', c', heq, -, rfl, -⟩ := h'.exists_concat
  obtain ⟨-, hc⟩ := List.append_inj' heq rfl
  rw [List.head_eq_of_cons_eq hc]

end

/-- A full chunk is the first of what is read. -/
theorem readsOf_cons {x : Bytes} (hx : x.length = 65536) (y : Bytes) : readsOf (x ++ y) = x :: readsOf y :=
  blocksOf_headBlock (.of_length (by decide) hx y)

theorem readsOf_nil : readsOf [] = [] := blocksOf_nil (by decide)

/-- A read of what is left of a stream answers 0 bytes at its end only (log 18). -/
theorem readsOf_of_ne_nil {y : Bytes} (hy : y ≠ []) : ∃ nxt rest, readsOf y = nxt :: rest ∧ nxt ≠ [] := by
  induction y using block_induction (b := Config.chunkSize) (by decide) with
  | nil => exact absurd rfl hy
  | head x y h => exact ⟨x, _, blocksOf_headBlock h, List.ne_nil_of_length_pos h.pos⟩

theorem readsOf_final {x : Bytes} (hne : x ≠ []) (hle : x.length ≤ 65536) : readsOf x = [x] := by
  have hhead : HeadBlock Config.chunkSize x [] := ⟨List.length_pos_iff.mpr hne, hle, fun h => absurd rfl h⟩
  calc
    readsOf x = blocksOf Config.chunkSize (x ++ []) := by rw [List.append_nil, readsOf]
    _ = x :: readsOf [] := blocksOf_headBlock hhead
    _ = [x] := by rw [readsOf_nil]

/-- R173: the encryption loop's last chunk is the short one. -/
theorem encChunks_cut {init final : Bytes} (hinit : init.length % 65536 = 0) (hfinal : final.length < 65536)
    (first : Bool) : StreamCut first init final (encChunks first (readsOf (init ++ final))) := by
  induction init using block_induction (b := 65536) (by decide) generalizing first with
  | nil =>
    have hchunks : encChunks first (readsOf final) = [⟨final, first, true⟩] := by
      rcases eq_or_ne final [] with rfl | hne
      · rw [readsOf_nil, encChunks]
      · rw [readsOf_final hne hfinal.le, encChunks]
        exact if_pos hfinal
    exact hchunks ▸ .last first final
  | head x rest h ih =>
    obtain ⟨hx, hrest⟩ := h.whole hinit
    rw [List.append_assoc, readsOf_cons hx, encChunks, if_neg (by rw [hx]; decide)]
    exact .cons first hx (ih hrest false)

/-- R173: the decryption loop reads one chunk ahead, so its last chunk is the last read that is not empty. -/
theorem decChunks_cut {init final : Bytes} (hinit : init.length % 65536 = 0) (hfinal : final.length ≤ 65536)
    (hne : final = [] → init = []) (first : Bool) :
    StreamCut first init final
      (decChunks first ((readsOf (init ++ final)).headD []) (readsOf (init ++ final)).tail) := by
  rcases eq_or_ne final [] with rfl | hfinal_ne
  · rw [hne rfl, List.append_nil, readsOf_nil]
    exact .last first []
  induction init using block_induction (b := 65536) (by decide) generalizing first with
  | nil =>
    rw [List.nil_append, readsOf_final hfinal_ne hfinal]
    exact .last first final
  | head x rest h ih =>
    obtain ⟨hx, hrest⟩ := h.whole hinit
    obtain ⟨nxt, later, hreads, hnxt⟩ := readsOf_of_ne_nil (List.append_ne_nil_of_right_ne_nil rest hfinal_ne)
    have hcut := ih hrest (fun h => absurd h hfinal_ne) false
    rw [hreads] at hcut
    rw [List.append_assoc, readsOf_cons hx, hreads, List.headD_cons, List.tail_cons, decChunks,
      if_neg (by simp [hx, hnxt, Config.chunkSize])]
    exact .cons first hx hcut

/-- The encryption loop keeps `length mod CHUNK_SIZE` bytes for its last chunk. -/
theorem encChunks_readsOf (data : Bytes) :
    ∃ init final, data = init ++ final ∧ final.length = data.length % 65536 ∧
      StreamCut true init final (encChunks true (readsOf data)) := by
  have hmod := Nat.mod_lt data.length (show 0 < 65536 by decide)
  have hdiv := Nat.div_add_mod' data.length 65536
  have hinit : (data.take (data.length / 65536 * 65536)).length = data.length / 65536 * 65536 := by
    rw [List.length_take]; omega
  have hfinal : (data.drop (data.length / 65536 * 65536)).length = data.length % 65536 := by
    rw [List.length_drop]; omega
  have hcut := encChunks_cut (by rw [hinit, Nat.mul_mod_left]) (hfinal.trans_lt hmod) true
  rw [List.take_append_drop] at hcut
  exact ⟨_, _, (List.take_append_drop ..).symm, hfinal, hcut⟩

/-- The decryption loop keeps a full chunk for the end of a stream of full chunks. -/
theorem decChunks_readsOf (data : Bytes) :
    ∃ init final, data = init ++ final ∧ init.length = (data.length - 1) / 65536 * 65536 ∧ final.length ≤ 65536 ∧
      (final = [] ↔ data = []) ∧
      StreamCut true init final (decChunks true ((readsOf data).headD []) (readsOf data).tail) := by
  have hmod := Nat.mod_lt (data.length - 1) (show 0 < 65536 by decide)
  have hdiv := Nat.div_add_mod' (data.length - 1) 65536
  have hinit : (data.take ((data.length - 1) / 65536 * 65536)).length = (data.length - 1) / 65536 * 65536 := by
    rw [List.length_take]; omega
  have hfinal : (data.drop ((data.length - 1) / 65536 * 65536)).length ≤ 65536 := by
    rw [List.length_drop]; omega
  have hnil : data.drop ((data.length - 1) / 65536 * 65536) = [] ↔ data = [] := by
    rw [List.drop_eq_nil_iff, ← List.length_eq_zero_iff]; omega
  have hcut := decChunks_cut (by rw [hinit, Nat.mul_mod_left]) hfinal (fun h => by rw [hnil.mp h, List.take_nil]) true
  rw [List.take_append_drop] at hcut
  exact ⟨_, _, (List.take_append_drop ..).symm, hinit, hfinal, hnil, hcut⟩

/-- Settles O57: both loops cut the stream into full chunks and a last one, of which each says the length. -/
theorem chunksOfAStream : Obligations.ChunksOfAStream := by
  intro data cs hcs
  obtain ⟨initE, finalE, hdataE, hlength, hcutE⟩ := encChunks_readsOf data
  obtain ⟨initD, finalD, hdataD, -, hle, hnil, hcutD⟩ := decChunks_readsOf data
  obtain ⟨init, final, hcut, hdata⟩ : ∃ init final, StreamCut true init final cs ∧ data = init ++ final := by
    rcases hcs with rfl | rfl
    · exact ⟨_, _, hcutE, hdataE⟩
    · exact ⟨_, _, hcutD, hdataD⟩
  obtain ⟨heads, c, hheads, hlast, hc, hfull⟩ := hcut.exists_concat
  refine ⟨hcut.flatMap_data.trans hdata.symm, ⟨heads, c, hheads, hlast, hfull, fun henc => ?enc, fun hdec => ?dec⟩,
    hcut.head_first, hcut.tail_first⟩
  case enc => rw [hc, hcut.final_unique (henc ▸ hcutE), hlength]
  case dec =>
    rw [hc, hcut.final_unique (hdec ▸ hcutD)]
    exact ⟨hle, hnil⟩

end Sys2Proof.Proofs

/-! ENC, DEC and CTX do not see what the host has still to do, so a command answers the same with accesses pending. -/

namespace Sys2Proof.Proofs

open Machine

/-- The state with another list of accesses pending. -/
def withHost (l : List HostOp) (s : State) : State := { s with host := l }

@[simp] theorem withHost_operands (l : List HostOp) (s : State) : (withHost l s).operands = s.operands := rfl
@[simp] theorem withHost_keyed (l : List HostOp) (s : State) : (withHost l s).keyed = s.keyed := rfl

theorem withHost_nil {s : State} (h : s.host = []) : withHost [] s = s := by
  rw [← h]
  rfl

@[simp] theorem bufRead_withHost (l : List HostOp) (s : State) (a n : Nat) :
    bufRead (withHost l s) a n = bufRead s a n := Laws.bufRead_congr (by rfl) (by rfl) a n

theorem encInput_withHost (l : List HostOp) (lf : Bool) (s : State) : encInput lf (withHost l s) = encInput lf s := by
  unfold encInput
  rw [bufRead_withHost]
  rfl

theorem afterChecks_withHost {l : List HostOp} {cs cs' : List (Bool × ErrorKind)} {ok ok' : State} (hcs : cs' = cs)
    (hok : ok' = withHost l ok) (b : Bool) (s : State) :
    afterChecks b cs' ok' (withHost l s) = withHost l (afterChecks b cs ok s) := by
  subst hcs hok
  unfold afterChecks
  split <;> rfl

theorem ctxWith_withHost (l : List HostOp) (m : Mode) (p : Scheme) (s : State) :
    ctxWith m p (withHost l s) = withHost l (ctxWith m p s) :=
  afterChecks_withHost rfl (by rw [bufRead_withHost]; rfl) _ _

/-- The command answers alike with other accesses pending, which it leaves where they are. -/
def CarriesHost (i : Instr) : Prop :=
  ∀ (l : List HostOp) (s t : State), exec i s = .next t → exec i (withHost l s) = .next (withHost l t)

theorem carriesHost_of_next {i : Instr} {f : State → State} (hf : ∀ s, exec i s = .next (f s))
    (hcomm : ∀ l s, f (withHost l s) = withHost l (f s)) : CarriesHost i := fun l s t h => by
  obtain rfl : f s = t := Host.Outcome.next.inj ((hf s).symm.trans h)
  rw [hf, hcomm]

theorem enc_carriesHost (lf bf : Bool) : CarriesHost (.enc lf bf) :=
  carriesHost_of_next (fun _ => rfl) fun _ _ => afterChecks_withHost rfl (by rw [encInput_withHost]; rfl) _ _

theorem dec_carriesHost (lf bf : Bool) : CarriesHost (.dec lf bf) :=
  carriesHost_of_next (fun _ => rfl) fun _ _ => afterChecks_withHost rfl (by rw [bufRead_withHost]; rfl) _ _

theorem ctx_carriesHost : CarriesHost .ctx := by
  refine carriesHost_of_next (fun _ => rfl) fun l s => ?_
  rw [withHost_operands, withHost_keyed]
  split
  · split
    · rfl
    · split
      · rfl
      · exact ctxWith_withHost l _ _ s
  · rfl

end Sys2Proof.Proofs

/-! One command as the host gives it: what it writes, the command, and what it reads (70_reset_and_hazards.md R172). -/

namespace Sys2Proof.Proofs

open Machine

/-! The accesses of a script, made one after the other -/

theorem converse_eq_settle {s : State} (hhost : s.host = []) (p : List Stmt) :
    converse p s = settle (withHost (p.flatMap Stmt.expand) s) := by
  rw [converse, State.withScript, hhost, List.nil_append, withHost]

theorem settle_none {s : State} (hhost : s.host = []) (hidle : s.inflight = none) :
    settle (withHost [] s) = .next s := by
  rw [withHost_nil hhost, Laws.settle_idle hhost hidle]

theorem settle_writesReg {s : State} (hidle : s.inflight = none) (n : RegName) (v : Word) (rest : List HostOp) :
    settle (withHost (wrReg n v :: rest) s) = settle (withHost rest (regWrite n.offset v s)) := by
  rw [Laws.settle_wrReg (s := withHost (wrReg n v :: rest) s) rfl hidle]
  cases n <;> rfl

/-- The core once host reads have returned `l`, newest first. -/
def heard (l : List Reply) (s : State) : State := { s with replies := l ++ s.replies }

@[simp] theorem bufRead_heard (l : List Reply) (s : State) (a n : Nat) : bufRead (heard l s) a n = bufRead s a n :=
  Laws.bufRead_congr (by rfl) (by rfl) a n

theorem heard_heard (l l' : List Reply) (s : State) : heard l (heard l' s) = heard (l ++ l') s := by
  simp [heard]

theorem settle_readsReg {s : State} (hidle : s.inflight = none) (n : RegName) (rest : List HostOp) :
    settle (withHost (.read .w32 n.offset :: rest) s) =
      settle (withHost rest (heard [.b32 (regRead s n.offset)] s)) := by
  rw [Laws.settle_rdReg (s := withHost (.read .w32 n.offset :: rest) s) rfl hidle]
  cases n <;> rfl

theorem settle_readsBytes {s : State} (hidle : s.inflight = none) {a n : Nat} (hfit : a + n ≤ Config.bufSize)
    (rest : List HostOp) :
    settle (withHost (rdBytes a n ++ rest) s) =
      settle (withHost rest (heard ((bufRead s a n).map Reply.b8).reverse s)) := by
  rw [Laws.settle_rdBytes n (s := withHost (rdBytes a n ++ rest) s) rfl hidle hfit, bufRead_withHost]
  rfl

/-- A BUF that agrees byte for byte with the store of `v` has `v` stored. -/
theorem storedAt_of_memGet? {s : State} {a : Nat} {v : Bytes} {m : Memory}
    (hm : ∀ x, memGet? m x = memGet? (memWrite s.mem a v) x) : storedAt s { s with mem := m } a v := by
  have hbyte (x : Nat) : bufByte { s with mem := m } x = bufByte (bufWrite s a v) x := by
    simp only [bufByte, hm]
    rfl
  obtain ⟨hread, hframe⟩ := storedAt_bufWrite s a v
  refine ⟨Eq.trans ?_ hread, fun x hx => (hbyte x).trans (hframe x hx)⟩
  exact List.ext_getElem (by simp) fun k _ _ => by simp only [Laws.bufRead_getElem, hbyte]

theorem settle_writesBytes {s : State} (hidle : s.inflight = none) {a : Nat} {v : Bytes}
    (hfit : a + v.length ≤ Config.bufSize) (rest : List HostOp) :
    ∃ m, settle (withHost (wrBytes a v ++ rest) s) = settle (withHost rest { s with mem := m }) ∧
      storedAt s { s with mem := m } a v := by
  obtain ⟨m, hsettle, hm⟩ := Laws.settle_wrBytes v (s := withHost (wrBytes a v ++ rest) s) rfl hidle hfit
  exact ⟨m, hsettle, storedAt_of_memGet? hm⟩

/-- A command and the `wait` after it: the engine runs it as it was issued (20_memory.md R53, R55). -/
theorem settle_runsCommand {i : Instr} {s t : State} (hi : CarriesHost i) (hwf : i.wellFormed = true)
    (hidle : s.inflight = none) (hexec : exec i (issue (encode i) s) = .next t) (rest : List HostOp) :
    settle (withHost (runCommand i ++ rest) s) = settle (withHost rest t) := by
  have hissued : (withHost (.wait :: rest) (issue (encode i) s)).inflight ≠ none := Option.some_ne_none _
  have hengine : engineStep (withHost (.wait :: rest) (issue (encode i) s)) = .next (withHost (.wait :: rest) t) :=
    (engineStep_decoded rfl (decode_encode hwf)).trans (hi _ _ _ hexec)
  calc
    settle (withHost (runCommand i ++ rest) s)
      = settle (withHost (.wait :: rest) (issue (encode i) s)) := settle_writesReg hidle .cmd (encode i) (.wait :: rest)
    _ = settle (withHost (.wait :: rest) t) := by rw [Laws.settle_wait rfl hissued, hengine, Laws.andThen_next]
    _ = settle (withHost rest t) := by
      rw [Laws.settle_access (s := withHost (.wait :: rest) t) rfl (Laws.exec_over hexec).2]
      rfl

/-! What the host hears -/

theorem converse_rd {s : State} (hhost : s.host = []) (hidle : s.inflight = none) (n : RegName) :
    converse [.rd n] s = .next (heard [.b32 (regRead s n.offset)] s) := by
  rw [converse_eq_settle hhost]
  exact (settle_readsReg hidle n []).trans (settle_none (s := heard _ s) hhost hidle)

theorem converse_rdbuf {s : State} {a n : Nat} (hhost : s.host = []) (hidle : s.inflight = none)
    (hfit : 0 < n → a + n ≤ Config.bufSize) :
    converse [.rdbuf a n] s = .next (heard ((bufRead s a n).map Reply.b8).reverse s) := by
  rw [converse_eq_settle hhost]
  rcases n.eq_zero_or_pos with rfl | hn
  · exact settle_none hhost hidle
  · exact (settle_readsBytes hidle (hfit hn) []).trans (settle_none (s := heard _ s) hhost hidle)

/-- The bytes of BUF come back as they were read. -/
theorem lastReplies_heard_bytes {n : Nat} {v : Bytes} (hv : v.length = n) (s : State) :
    (lastReplies n (heard (v.map Reply.b8).reverse s)).map (fun w => w.setWidth 8) = v := by
  rw [lastReplies, heard, List.take_left' (by simpa using hv)]
  simp [Function.comp_def, Reply.word]

/-- STATUS and ERRCODE, read one after the other, tell the host of an error and of its code. -/
theorem reportedError_heard (s u : State) :
    reportedError (heard [.b32 (regRead s 0x010), .b32 (regRead s 0x00C)] u) =
      if s.err then some s.errcode else none := by
  have hstatus : (regRead s 0x00C).getLsbD 2 = s.err := statusWord_flag s 2 (by decide)
  have hcode : (regRead s 0x010).setWidth 8 = s.errcode := by simp [regRead]
  rw [← hstatus, ← hcode]
  rfl

/-- The output is the OUTLEN bytes at DST, and reading it leaves the core as it was but for the replies. -/
theorem readOutput_eq {s : State} {dst : Word} (hhost : s.host = []) (hidle : s.inflight = none)
    (hfit : 0 < s.outlen.toNat → dst.toNat + s.outlen.toNat ≤ Config.bufSize) :
    ∃ l, readOutput dst s = .next ⟨heard l s, bufRead s dst.toNat s.outlen.toNat, none⟩ := by
  have houtlen : ((lastReplies 1 (heard [.b32 (regRead s RegName.outlen.offset)] s)).headD 0) = s.outlen := rfl
  have hread := converse_rdbuf (s := heard [.b32 (regRead s RegName.outlen.offset)] s) hhost hidle hfit
  refine ⟨((bufRead s dst.toNat s.outlen.toNat).map Reply.b8).reverse ++ [.b32 s.outlen], ?_⟩
  simp only [readOutput, converse_rd hhost hidle, Laws.andThen_next, houtlen, hread, bufRead_heard,
    lastReplies_heard_bytes (Laws.bufRead_length ..)]
  simp [heard, regRead, RegName.offset]

/-- The reads that end every command of the host's: STATUS and ERRCODE. -/
def statusReads : List HostOp := [.read .w32 0x00C, .read .w32 0x010]

/-- What the host holds of a command that left the core as `t`: the ERRCODE, or the output at DST, and the replies. -/
def hostAnswer (dst : Word) (l : List Reply) (t : State) : HostRun where
  core := heard l t
  out := if t.err then [] else bufRead t dst.toNat t.outlen.toNat
  error := if t.err then some t.errcode else none

/-- R172: once the script's accesses have taken the core to `t`, the host holds the ERRCODE of `t` or its output. -/
theorem hostCommand_of_settle {p : List Stmt} {dst : Word} {s t : State} (hhost : s.host = []) (hthost : t.host = [])
    (htidle : t.inflight = none)
    (hsettle : settle (withHost (p.flatMap Stmt.expand ++ statusReads) s) = settle (withHost statusReads t))
    (hfit : t.err = false → 0 < t.outlen.toNat → dst.toNat + t.outlen.toNat ≤ Config.bufSize) :
    ∃ l, hostCommand p dst s = .next (hostAnswer dst l t) := by
  have hheard : converse (p ++ [.rd .status, .rd .errcode]) s =
      .next (heard [.b32 (regRead t 0x010), .b32 (regRead t 0x00C)] t) := by
    rw [converse_eq_settle hhost, List.flatMap_append]
    refine hsettle.trans ((settle_readsReg htidle .status _).trans ?_)
    refine (settle_readsReg (s := heard _ t) htidle .errcode []).trans ?_
    exact settle_none (s := heard _ (heard _ t)) hthost htidle
  rw [hostCommand, hheard, Laws.andThen_next, reportedError_heard]
  unfold hostAnswer
  cases herr : t.err with
  | true => exact ⟨_, rfl⟩
  | false =>
    obtain ⟨l, hl⟩ := readOutput_eq (s := heard [.b32 (regRead t 0x010), .b32 (regRead t 0x00C)] t) hthost htidle
      (hfit herr)
    exact ⟨_, hl.trans (by rw [heard_heard, bufRead_heard]; rfl)⟩

/-- Register writes, one after the other. -/
def writeRegs (ws : List (RegName × Word)) (s : State) : State :=
  ws.foldl (fun s w => regWrite w.1.offset w.2 s) s

theorem regWrite_inflight {n : RegName} (hn : n ≠ .cmd) (v : Word) (s : State) :
    (regWrite n.offset v s).inflight = s.inflight := by
  cases n
  case cmd => exact absurd rfl hn
  all_goals rfl

theorem writeRegs_inflight {ws : List (RegName × Word)} (hws : ∀ w ∈ ws, w.1 ≠ .cmd) (s : State) :
    (writeRegs ws s).inflight = s.inflight := by
  induction ws generalizing s with
  | nil => rfl
  | cons w ws ih =>
    obtain ⟨hw, hws⟩ := List.forall_mem_cons.mp hws
    exact (ih hws _).trans (regWrite_inflight hw w.2 s)

theorem settle_writesRegs {ws : List (RegName × Word)} (hws : ∀ w ∈ ws, w.1 ≠ .cmd) {s : State}
    (hidle : s.inflight = none) (rest : List HostOp) :
    settle (withHost (ws.map (fun w => wrReg w.1 w.2) ++ rest) s) = settle (withHost rest (writeRegs ws s)) := by
  induction ws generalizing s with
  | nil => rfl
  | cons w ws ih =>
    obtain ⟨hw, hws⟩ := List.forall_mem_cons.mp hws
    exact (settle_writesReg hidle ..).trans (ih hws ((regWrite_inflight hw w.2 s).trans hidle))

/-- R172: the host stores `v` at `a`, writes registers and issues the command; then it holds the ERRCODE or the
output. -/
theorem hostCommand_runs {p : List Stmt} {dst : Word} {s : State} {a : Nat} {v : Bytes} {ws : List (RegName × Word)}
    {i : Instr} (hp : p.flatMap Stmt.expand = wrBytes a v ++ (ws.map (fun w => wrReg w.1 w.2) ++ runCommand i))
    (hws : ∀ w ∈ ws, w.1 ≠ .cmd) (hi : CarriesHost i) (hwf : i.wellFormed = true) (hhost : s.host = [])
    (hidle : s.inflight = none) (hfit : a + v.length ≤ Config.bufSize) :
    ∃ m, storedAt s { s with mem := m } a v ∧
      ∀ t, exec i (issue (encode i) (writeRegs ws { s with mem := m })) = .next t → t.host = [] →
        (t.err = false → 0 < t.outlen.toNat → dst.toNat + t.outlen.toNat ≤ Config.bufSize) →
        ∃ l, hostCommand p dst s = .next (hostAnswer dst l t) := by
  obtain ⟨m, hstore, hstored⟩ := settle_writesBytes hidle hfit
    (ws.map (fun w => wrReg w.1 w.2) ++ (runCommand i ++ statusReads))
  refine ⟨m, hstored, fun t hexec hthost hout => ?_⟩
  have hregs := settle_writesRegs hws (s := { s with mem := m }) hidle (runCommand i ++ statusReads)
  refine hostCommand_of_settle hhost hthost (Laws.exec_over hexec).2 ?_ hout
  rw [hp, List.append_assoc, List.append_assoc, hstore, hregs]
  exact settle_runsCommand hi hwf ((writeRegs_inflight hws { s with mem := m }).trans hidle) hexec statusReads

end Sys2Proof.Proofs

/-! A chunk as the host gives it (70_reset_and_hazards.md R172). -/

namespace Sys2Proof.Proofs

open Machine

/-- The core as the host's writes for a chunk leave it, with `m` in BUF and the command issued. -/
def chunkIssued (i : Instr) (p : StreamPlace) (data : Bytes) (s : State) (m : Memory) : State :=
  let regs : Operands := ⟨p.ctrl &&& 0x00013F77, p.src, BitVec.ofNat 32 data.length, p.dst, s.regs.src2, s.regs.len2⟩
  { s with regs := regs, mem := m, inflight := some ⟨encode i, regs⟩, done := false, err := false, errcode := 0 }

theorem storedAt_congr {s t t' : State} {a : Nat} {v : Bytes} (h : storedAt s t a v) (hmem : t'.mem = t.mem)
    (hgen : t'.bufGen = t.bufGen) : storedAt s t' a v := by
  obtain ⟨hread, hframe⟩ := h
  exact ⟨(Laws.bufRead_congr hmem hgen ..).trans hread,
    fun x hx => (Laws.bufByte_congr hmem hgen x).trans (hframe x hx)⟩

/-- The output of a chunk that meets no error lies in BUF, where the host can read it. -/
theorem chunk_output_fits {mk : Bool → Bool → Instr} (hmk : mk = .enc ∨ mk = .dec) {lf bf : Bool} {s t : State}
    (hs : cipherInv s) (h : exec (mk lf bf) s = .next t) (herr : t.err = false) :
    s.operands.dstN + t.outlen.toNat ≤ Config.bufSize := by
  have hraised (e : ErrorKind) : t ≠ raiseError true e s := by rintro rfl; cases herr
  have hcompleted {n : Nat} {u : State} (hfit : s.operands.dstN + n ≤ Config.bufSize) :
      s.operands.dstN + (complete n u).outlen.toNat ≤ Config.bufSize := by
    have hle : (complete n u).outlen.toNat ≤ n := by
      rw [Laws.complete_outlen, BitVec.toNat_ofNat]
      exact Nat.mod_le ..
    omega
  rcases hmk with rfl | rfl
  · rcases Laws.execEnc_cases h with ⟨e, he⟩ | ⟨-, -, -, -, hdst, rfl⟩
    · exact absurd he (hraised e)
    · exact hcompleted (by simpa [inBuf] using hdst)
  · rcases Laws.execDec_cases h with ⟨e, he⟩ | ⟨hctxv, -, hwhole, -, hdst, rfl⟩
    · exact absurd he (hraised e)
    · have hlength := (decOutput_length_le lf s _).trans
        (chunk_length_le hs hctxv true (startRegs bf s) (x := bufRead s s.operands.srcN s.operands.lenN)
          fun hm => by simpa [hm] using hwhole)
      rw [Laws.bufRead_length] at hlength
      have hdst : s.operands.dstN + s.operands.lenN ≤ Config.bufSize := by simpa [inBuf] using hdst
      exact hcompleted (by omega)

theorem chunk_carriesHost {mk : Bool → Bool → Instr} (hmk : mk = .enc ∨ mk = .dec) (lf bf : Bool) :
    CarriesHost (mk lf bf) ∧ (mk lf bf).wellFormed = true := by
  rcases hmk with rfl | rfl
  exacts [⟨enc_carriesHost lf bf, rfl⟩, ⟨dec_carriesHost lf bf, rfl⟩]

/-- R172, for a chunk: the command runs on what the host wrote, and the host holds its ERRCODE or its output. -/
theorem hostCommand_chunk {mk : Bool → Bool → Instr} (hmk : mk = .enc ∨ mk = .dec) (p : StreamPlace) (c : Chunk)
    {s : State} (hs : cipherInv s) (hhost : s.host = []) (hidle : s.inflight = none)
    (hfit : p.src.toNat + c.data.length ≤ Config.bufSize) :
    ∃ m t l, storedAt s (chunkIssued (mk c.last c.first) p c.data s m) p.src.toNat c.data ∧
      exec (mk c.last c.first) (chunkIssued (mk c.last c.first) p c.data s m) = .next t ∧
      hostCommand (chunkScript mk p c) p.dst s = .next (hostAnswer p.dst l t) := by
  obtain ⟨hcarries, hwf⟩ := chunk_carriesHost hmk c.last c.first
  obtain ⟨m, hstored, hruns⟩ := hostCommand_runs (p := chunkScript mk p c) (dst := p.dst)
    (ws := [(.ctrl, p.ctrl), (.src, p.src), (.len, BitVec.ofNat 32 c.data.length), (.dst, p.dst)])
    (by simp [chunkScript, Stmt.expand]) (by simp) hcarries hwf hhost hidle hfit
  obtain ⟨t, hexec⟩ := Laws.exec_next (mk c.last c.first) (chunkIssued (mk c.last c.first) p c.data s m)
  obtain ⟨l, hl⟩ := hruns t hexec ((Laws.exec_over hexec).1.trans hhost)
    fun herr _ => chunk_output_fits hmk (s := chunkIssued (mk c.last c.first) p c.data s m) hs hexec herr
  exact ⟨m, t, l, storedAt_congr hstored rfl rfl, hexec, hl⟩

/-- Settles O56: R172 for a chunk, with the states the statement names. -/
theorem hostCommandGivesTheCommandsOutput : Obligations.HostCommandGivesTheCommandsOutput := by
  intro mk p c s hmk hs hhost hidle hfit
  obtain ⟨m, t, l, hstored, hexec, hrun⟩ := hostCommand_chunk hmk p c hs hhost hidle hfit
  exact ⟨_, t, _, rfl, hstored, hexec, hrun, rfl, rfl, rfl⟩

end Sys2Proof.Proofs

/-! The streaming loops, chunk after chunk (70_reset_and_hazards.md R173). -/

namespace Sys2Proof.Proofs

open Machine

/-- What a chunk of a stream finds: an idle core with a context, and an operation in its direction unless it begins
one. -/
structure Streaming (first dir : Bool) (s : State) : Prop where
  inv : cipherInv s
  ctxv : s.ctxv = true
  host : s.host = []
  idle : s.inflight = none
  op : first = true ∨ (s.opact = true ∧ s.opdir = dir)

/-- What a chunk leaves of the core: the schedule, the context and HAZ. -/
structure SameContext (s t : State) : Prop where
  sched : t.sched = s.sched
  ctx : modeCtx t = modeCtx s
  pad : t.lpad = s.lpad
  haz : t.haz = s.haz

theorem SameContext.refl (s : State) : SameContext s s := ⟨rfl, rfl, rfl, rfl⟩

theorem SameContext.trans {s t u : State} (h : SameContext s t) (h' : SameContext t u) : SameContext s u :=
  ⟨h'.sched.trans h.sched, h'.ctx.trans h.ctx, h'.pad.trans h.pad, h'.haz.trans h.haz⟩

theorem SameContext.mode {s t : State} (h : SameContext s t) : t.lmode = s.lmode := congrArg ModeCtx.mode h.ctx

theorem SameContext.blockSize {s t : State} (h : SameContext s t) : t.blockSize = s.blockSize :=
  congrArg ModeCtx.b h.ctx

/-- The registers of the operation (10_state.md R36). -/
def opRegs (s : State) : OpRegs := ⟨s.fb, s.pp, s.pcr, s.blkidx⟩

/-- The core after a chunk without an error: the operation has the registers `w`, and goes on unless the chunk was the
last. -/
structure ChunkDone (lf dir : Bool) (w : OpRegs) (s t : State) : Prop where
  inv : cipherInv t
  host : t.host = []
  idle : t.inflight = none
  ctxv : t.ctxv = true
  regs : opRegs t = w
  opact : t.opact = !lf
  opdir : t.opdir = dir
  context : SameContext s t

/-- An open operation awaits the next chunk. -/
theorem ChunkDone.streaming {dir : Bool} {w : OpRegs} {s t : State} (h : ChunkDone false dir w s t) :
    Streaming false dir t :=
  ⟨h.inv, h.ctxv, h.host, h.idle, .inr ⟨h.opact, h.opdir⟩⟩

/-- The instruction of a direction's chunks. -/
def chunkInstr (dir : Bool) : Bool → Bool → Instr := if dir then .dec else .enc

theorem chunkInstr_cases (dir : Bool) : chunkInstr dir = .enc ∨ chunkInstr dir = .dec := by
  cases dir <;> simp [chunkInstr]

/-- What a chunk gives of the bytes `x`: its output, and the registers it leaves (43_modes.md R123, R134, R135). -/
def runFrom (dir first : Bool) (s : State) (x : Bytes) : Bytes × OpRegs :=
  runChunk s.sched (modeCtx s) dir (startRegs first s) x

/-- What a chunk's command leaves of the state `u` it was issued in: registers `w`, `d` draws made and `y` stored at
DST. -/
def chunkStored (lf dir : Bool) (p : StreamPlace) (w : OpRegs) (y : Bytes) (d : Nat) (u : State) : State :=
  complete y.length (bufWrite
    { u with fb := w.fb, pp := w.pp, pcr := w.pcr, blkidx := w.blk, opact := !lf, opdir := dir, draws := d }
    p.dst.toNat y)

/-- A chunk whose command stores `y` at DST without an error gives `y` to the host. -/
theorem chunk_done {dir : Bool} {p : StreamPlace} {c : Chunk} {s : State} {w : OpRegs} {y : Bytes} {d : Nat}
    (hs : Streaming c.first dir s) (hsrc : p.src.toNat + c.data.length ≤ Config.bufSize)
    (hdst : p.dst.toNat + y.length ≤ Config.bufSize)
    (hexec : ∀ u m, u = chunkIssued (chunkInstr dir c.last c.first) p c.data s m →
      bufRead u p.src.toNat c.data.length = c.data →
      exec (chunkInstr dir c.last c.first) u = .next (chunkStored c.last dir p w y d u)) :
    ∃ r, hostCommand (chunkScript (chunkInstr dir) p c) p.dst s = .next r ∧ r.error = none ∧ r.out = y ∧
      ChunkDone c.last dir w s r.core ∧ r.core.draws = d := by
  obtain ⟨m, t, l, ⟨hread, -⟩, ht, hrun⟩ :=
    hostCommand_chunk (chunkInstr_cases dir) p c hs.inv hs.host hs.idle hsrc
  have hinv : cipherInv t := exec_keeps_cipherInv (s := chunkIssued _ p c.data s m) hs.inv ht
  obtain rfl := Host.Outcome.next.inj (ht.symm.trans (hexec _ m rfl hread))
  have houtlen : (BitVec.ofNat 32 y.length).toNat = y.length := by
    have : p.dst.toNat + y.length ≤ 262144 := hdst
    rw [BitVec.toNat_ofNat]
    omega
  refine ⟨_, hrun, rfl, ?_, ⟨hinv, hs.host, rfl, hs.ctxv, rfl, rfl, rfl, ⟨rfl, rfl, rfl, rfl⟩⟩, rfl⟩
  change bufRead _ p.dst.toNat (BitVec.ofNat 32 y.length).toNat = y
  rw [houtlen]
  exact (storedAt_complete (storedAt_bufWrite ..) _).1

theorem lenN_chunkIssued (i : Instr) (p : StreamPlace) {data : Bytes} (hdata : data.length ≤ Config.bufSize)
    (s : State) (m : Memory) : (chunkIssued i p data s m).operands.lenN = data.length := by
  have hdata : data.length ≤ 262144 := hdata
  change (BitVec.ofNat 32 data.length).toNat = data.length
  rw [BitVec.toNat_ofNat]
  omega

/-- How many bytes an encryption chunk draws (43_modes.md R134). -/
def encDataDraws (lf : Bool) (s : State) (data : Bytes) : Nat :=
  if s.lmode.isBlock && lf then padDraws s.lpad data.length s.blockSize else 0

/-- What an encryption chunk encrypts: its data, padded in the last chunk of a block mode (43_modes.md R134). -/
def encData (lf : Bool) (s : State) (data : Bytes) : Bytes :=
  if s.lmode.isBlock && lf then padBytes s.lpad data s.blockSize (drawBytes s.draws (encDataDraws lf s data))
  else data

theorem encData_length (lf : Bool) (s : State) (data : Bytes) :
    (encData lf s data).length =
      data.length + if s.lmode.isBlock && lf then padLen s.lpad data.length s.blockSize else 0 := by
  unfold encData encDataDraws
  split
  · exact Laws.padBytes_length _ _ _ _ (blockSize_pos s) (Laws.drawBytes_length ..)
  · rfl

/-- In a block mode a chunk encrypts whole blocks. -/
theorem encData_whole {lf : Bool} {s : State} {data : Bytes} (hlen : lf = true ∨ data.length % s.blockSize = 0)
    (hm : s.lmode.isBlock = true) : (encData lf s data).length % s.blockSize = 0 := by
  rw [encData_length]
  cases lf with
  | true => simpa [hm] using add_padLen_mod s.lpad data.length (blockSize_pos s)
  | false => simpa using hlen

/-- R134, for a chunk as the host gives it. -/
theorem enc_chunk {p : StreamPlace} {c : Chunk} {s : State} (hs : Streaming c.first false s)
    (hlen : c.last = true ∨ c.data.length % s.blockSize = 0) (hsrc : p.src.toNat + c.data.length ≤ Config.bufSize)
    (hdst : p.dst.toNat + (encData c.last s c.data).length ≤ Config.bufSize) :
    ∃ r, hostCommand (chunkScript (chunkInstr false) p c) p.dst s = .next r ∧ r.error = none ∧
      r.out = (runFrom false c.first s (encData c.last s c.data)).1 ∧
      ChunkDone c.last false (runFrom false c.first s (encData c.last s c.data)).2 s r.core ∧
      r.core.draws = s.draws + encDataDraws c.last s c.data := by
  have hlength : (runFrom false c.first s (encData c.last s c.data)).1.length = (encData c.last s c.data).length :=
    chunk_length hs.inv hs.ctxv hs.op (encData_whole hlen)
  refine chunk_done (dir := false) hs hsrc (by rwa [hlength]) fun u m hu hread => ?_
  have hlenN : u.operands.lenN = c.data.length := by rw [hu, lenN_chunkIssued _ p (by omega)]
  have hsrcN : u.operands.srcN = p.src.toNat := by rw [hu]; rfl
  have hinput : encInput c.last u = encData c.last s c.data := by
    simp only [encInput, encDraws, hlenN, hsrcN, hread]
    rw [hu]
    rfl
  have hdraws : u.draws + encDraws c.last u = s.draws + encDataDraws c.last s c.data := by
    rw [encDraws, hlenN, hu]
    rfl
  have hout : u.operands.lenN + encPadLen c.last u = (runFrom false c.first s (encData c.last s c.data)).1.length := by
    rw [← encInput_length, hinput, hlength]
  have hexec := exec_enc_of_checks (lf := c.last) (bf := c.first) (s := u) (by rw [hu]; exact hs.ctxv)
    (by rw [hu]; exact hs.op) (by rw [hlenN, hu]; exact hlen) (by rw [hlenN, hsrcN]; exact hsrc)
    (by rw [hout, hlength, hu]; exact hdst) rfl
  rw [hout, hdraws, hinput] at hexec
  subst hu
  exact hexec

/-- R135, for a chunk as the host gives it. -/
theorem dec_chunk {p : StreamPlace} {c : Chunk} {s : State} (hs : Streaming c.first true s)
    (hlen : (s.lmode.isBlock = false ∧ c.last = true) ∨ c.data.length % s.blockSize = 0)
    (hsrc : p.src.toNat + c.data.length ≤ Config.bufSize) (hdst : p.dst.toNat + c.data.length ≤ Config.bufSize) :
    ∃ r, hostCommand (chunkScript (chunkInstr true) p c) p.dst s = .next r ∧ r.error = none ∧
      r.out = decOutput c.last s (runFrom true c.first s c.data).1 ∧
      ChunkDone c.last true (runFrom true c.first s c.data).2 s r.core ∧ r.core.draws = s.draws := by
  have hlength : (decOutput c.last s (runFrom true c.first s c.data).1).length ≤ c.data.length :=
    (decOutput_length_le ..).trans (chunk_length hs.inv hs.ctxv hs.op fun hm => by simpa [hm] using hlen).le
  refine chunk_done (dir := true) hs hsrc (by omega) fun u m hu hread => ?_
  have hlenN : u.operands.lenN = c.data.length := by rw [hu, lenN_chunkIssued _ p (by omega)]
  have hsrcN : u.operands.srcN = p.src.toNat := by rw [hu]; rfl
  have hexec := exec_dec_of_checks (lf := c.last) (bf := c.first) (s := u) (by rw [hu]; exact hs.ctxv)
    (by rw [hu]; exact hs.op) (by rw [hlenN, hu]; exact hlen) (by rw [hlenN, hsrcN]; exact hsrc)
    (by rw [hlenN, hu]; exact hdst) rfl
  rw [hlenN, hsrcN, hread] at hexec
  subst hu
  exact hexec

/-- R173: a stream that breaks a block fails at the chunk that ends it, and the operation is over. -/
theorem dec_chunk_broken {p : StreamPlace} {c : Chunk} {s : State} (hs : Streaming c.first true s)
    (hm : s.lmode.isBlock = true) (hlen : c.data.length % s.blockSize ≠ 0)
    (hsrc : p.src.toNat + c.data.length ≤ Config.bufSize) :
    ∃ r, hostCommand (chunkScript (chunkInstr true) p c) p.dst s = .next r ∧ r.error = some 0x08 ∧
      r.core.opact = false := by
  obtain ⟨m, t, l, -, ht, hrun⟩ := hostCommand_chunk (chunkInstr_cases true) p c hs.inv hs.host hs.idle hsrc
  have hlenN := lenN_chunkIssued (chunkInstr true c.last c.first) p (show c.data.length ≤ Config.bufSize by omega) s m
  have hctxv : ¬ s.ctxv = false := by simp [hs.ctxv]
  have hop : ¬ (c.first = false ∧ (s.opact = false ∨ s.opdir = false)) := by
    rcases hs.op with h | ⟨h, h'⟩ <;> simp [*]
  obtain ⟨-, herrors, -⟩ := decCommand
  have hfails : failsWith (.dec c.last c.first) 0x08 (chunkIssued (chunkInstr true c.last c.first) p c.data s m) := by
    refine herrors c.last c.first _ 0x08 ?_ (by decide)
    rw [hlenN]
    exact ((if_neg hctxv).trans ((if_neg hop).trans (if_pos ⟨.inl hm, hlen⟩))).symm
  obtain rfl := Host.Outcome.next.inj (ht.symm.trans hfails)
  exact ⟨_, hrun, rfl, by simp [hostAnswer, heard, endsOperation]⟩

/-- CHUNK_SIZE is a multiple of every block size. -/
theorem whole_of_full_chunks (s : State) {x : Bytes} (hx : x.length % 65536 = 0) : x.length % s.blockSize = 0 := by
  have hdvd : s.blockSize ∣ 65536 := by
    unfold State.blockSize
    cases s.lalg <;> decide
  exact Nat.mod_eq_zero_of_dvd (hdvd.trans (Nat.dvd_of_mod_eq_zero hx))

/-- A chunk that is not the last is whole blocks, and its output goes straight to the host in both directions. -/
theorem full_chunk {dir first : Bool} {p : StreamPlace} {x : Bytes} {s : State} (hs : Streaming first dir s)
    (hx : x.length = 65536) (hsrc : p.src.toNat + 65536 ≤ Config.bufSize)
    (hdst : p.dst.toNat + 65536 ≤ Config.bufSize) :
    ∃ r, hostCommand (chunkScript (chunkInstr dir) p ⟨x, first, false⟩) p.dst s = .next r ∧ r.error = none ∧
      r.out = (runFrom dir first s x).1 ∧ ChunkDone false dir (runFrom dir first s x).2 s r.core ∧
      r.core.draws = s.draws := by
  rw [← hx] at hsrc hdst
  have hwhole := whole_of_full_chunks s (congrArg (· % 65536) hx)
  cases dir with
  | false =>
    simpa [encData, encDataDraws] using
      enc_chunk (c := ⟨x, first, false⟩) hs (.inr hwhole) hsrc (by simpa [encData] using hdst)
  | true => simpa [decOutput] using dec_chunk (c := ⟨x, first, false⟩) hs (.inr hwhole) hsrc hdst

/-- R136: what comes after whole blocks runs from the registers they left. -/
theorem runFrom_append {dir first first' : Bool} {s t : State} {x : Bytes} (hx : x.length % s.blockSize = 0)
    (hctx : SameContext s t) (hregs : startRegs first' t = (runFrom dir first s x).2) (y : Bytes) :
    runFrom dir first s (x ++ y) =
      ((runFrom dir first s x).1 ++ (runFrom dir first' t y).1, (runFrom dir first' t y).2) := by
  rw [runFrom, chunkingDoesNotMatter _ _ _ _ _ _ (blockSize_pos s) hx]
  simp only [runFrom, hctx.sched, hctx.ctx, hregs]

/-- Both loops run the full chunks, and then the last one from the registers and with the output those have left. -/
theorem streamChunks_cut {dir first : Bool} {init final : Bytes} {cs : List Chunk}
    (hcut : StreamCut first init final cs) {p : StreamPlace} {s : State} (sofar : Bytes) (hs : Streaming first dir s)
    (hsrc : p.src.toNat + 65536 ≤ Config.bufSize) (hdst : p.dst.toNat + 65536 ≤ Config.bufSize) :
    ∃ first' t, Streaming first' dir t ∧ SameContext s t ∧ t.draws = s.draws ∧
      startRegs first' t = (runFrom dir first s init).2 ∧
      streamChunks (chunkInstr dir) p cs ⟨s, sofar, none⟩ =
        streamChunks (chunkInstr dir) p [⟨final, first', true⟩] ⟨t, sofar ++ (runFrom dir first s init).1, none⟩ := by
  induction hcut generalizing s sofar with
  | last first final =>
    have hnone : runFrom dir first s [] = ([], startRegs first s) := runChunk_nil (blockSize_pos s) ..
    exact ⟨first, s, hs, .refl s, rfl, by rw [hnone], by rw [hnone, List.append_nil]⟩
  | @cons first x init final cs hx _ ih =>
    obtain ⟨r, hrun, herror, hout, hdone, hdraws⟩ := full_chunk hs hx hsrc hdst
    obtain ⟨first', t, ht, hctx, htdraws, hregs, hrest⟩ := ih (sofar ++ r.out) hdone.streaming
    have hwhole := whole_of_full_chunks s (congrArg (· % 65536) hx)
    have happend := runFrom_append (first' := false) hwhole hdone.context hdone.regs init
    refine ⟨first', t, ht, hdone.context.trans hctx, htdraws.trans hdraws, by rw [hregs, happend], ?_⟩
    rw [Laws.streamChunks_cons_ok hrun herror, hrest, happend, hout, List.append_assoc]

end Sys2Proof.Proofs

/-! A streaming loop gives what one chunk of the whole stream would give (70_reset_and_hazards.md R173). -/

namespace Sys2Proof.Proofs

open Machine

/-- R107: whole blocks before the data change nothing of its padding. -/
theorem padLen_add {k bs : Nat} (hk : k % bs = 0) (sch : Scheme) (n : Nat) :
    padLen sch (k + n) bs = padLen sch n bs := by
  have hmod : (k + n) % bs = n % bs := by rw [Nat.add_mod, hk, Nat.zero_add, Nat.mod_mod]
  simp only [padLen, hmod]

theorem padDraws_add {k bs : Nat} (hk : k % bs = 0) (sch : Scheme) (n : Nat) :
    padDraws sch (k + n) bs = padDraws sch n bs := by
  cases sch <;> simp only [padDraws, padLen_add hk]

theorem padBytes_append {x : Bytes} {bs : Nat} (hx : x.length % bs = 0) (sch : Scheme) (y filler : Bytes) :
    padBytes sch (x ++ y) bs filler = x ++ padBytes sch y bs filler := by
  have htail : padTail sch (x.length + y.length) bs filler = padTail sch y.length bs filler := by
    cases sch <;> simp only [padTail, padLen_add hx]
  rw [padBytes, List.length_append, htail, List.append_assoc, padBytes]

theorem padLen_le (sch : Scheme) (n bs : Nat) : padLen sch n bs ≤ bs := by
  cases sch with
  | zeros =>
    rw [padLen]
    split
    · exact Nat.zero_le bs
    · exact Nat.sub_le ..
  | pkcs7 | ansix923 | iso10126 => exact Nat.sub_le ..

theorem encData_length_le (lf : Bool) (s : State) (data : Bytes) :
    (encData lf s data).length ≤ data.length + s.blockSize := by
  have := padLen_le s.lpad data.length s.blockSize
  rw [encData_length]
  split <;> omega

theorem encData_last (s : State) (data : Bytes) :
    encData true s data =
      if s.lmode.isBlock = true
      then padBytes s.lpad data s.blockSize (drawBytes s.draws (padDraws s.lpad data.length s.blockSize))
      else data := by
  unfold encData encDataDraws
  cases s.lmode.isBlock <;> rfl

/-- R134: the last chunk's padding is that of the whole stream. -/
theorem encData_append {s t : State} {x : Bytes} (hx : x.length % s.blockSize = 0) (hctx : SameContext s t)
    (hdraws : t.draws = s.draws) (y : Bytes) : encData true s (x ++ y) = x ++ encData true t y := by
  rw [encData_last, encData_last, hctx.mode, hctx.pad, hctx.blockSize, hdraws, List.length_append, padDraws_add hx,
    padBytes_append hx]
  split <;> rfl

/-- A last chunk that meets no error ends the loop, and its output ends what the writer is given. -/
theorem streamChunks_last {mk : Bool → Bool → Instr} {p : StreamPlace} {c : Chunk} {t : State} {r : HostRun}
    (hrun : hostCommand (chunkScript mk p c) p.dst t = .next r) (herror : r.error = none) (sofar : Bytes) :
    streamChunks mk p [c] ⟨t, sofar, none⟩ = .next ⟨r.core, sofar ++ r.out, none⟩ := by
  rw [Laws.streamChunks_cons_ok hrun herror, Laws.streamChunks_nil]

/-- The one chunk of a whole stream, as the statements write it. -/
theorem runFrom_begin (dir : Bool) {s : State} {z : Bytes} (hz : z = s.iv.getD (List.replicate s.blockSize 0)) :
    runChunk s.sched ⟨s.lmode, z, s.lctrle, s.blockSize⟩ dir ⟨z, z, z, 0⟩ = runFrom dir true s := by
  rw [hz, ← ivOrZero_eq]
  rfl

/-- Settles O58: the full chunks and the last one, from the registers they left, are the whole padded stream. -/
theorem encryptStreamIsOneEncryption : Obligations.EncryptStreamIsOneEncryption := by
  intro p sofar data s z x w hs hctxv hhost hidle hsrc hdst hz hx hw
  obtain ⟨init, final, rfl, hlength, hcut⟩ := encChunks_readsOf data
  have hfinal : final.length < 65536 := hlength.trans_lt (Nat.mod_lt _ (by decide))
  obtain ⟨first, t, ht, hctx, hdraws, hregs, hloop⟩ :=
    streamChunks_cut (dir := false) hcut sofar ⟨hs, hctxv, hhost, hidle, .inl rfl⟩ hsrc (by omega)
  have hinit := whole_of_full_chunks s hcut.init_length
  have hfit := encData_length_le true t final
  rw [hctx.blockSize] at hfit
  obtain ⟨r, hrun, herror, hout, hdone, -⟩ :=
    enc_chunk (p := p) (c := ⟨final, first, true⟩) ht (.inl rfl) (by dsimp only; omega) (by dsimp only; omega)
  rw [← encData_last, encData_append hinit hctx hdraws] at hx
  rw [runFrom_begin false hz, hx, runFrom_append hinit hctx hregs] at hw
  refine ⟨_, hloop.trans (streamChunks_last hrun herror _), rfl, ?_, ?_, hdone.opact, hdone.context.haz.trans hctx.haz⟩
  · rw [hw, hout, List.append_assoc]
  · rw [hw]
    exact hdone.regs

/-- R135: the last chunk is unpadded by its own output, which is what follows the full chunks' in the whole stream's. -/
theorem decOutput_runFrom_append {s t : State} {first : Bool} {x : Bytes} (hs : Streaming true true s)
    (hx : x.length % s.blockSize = 0) (hctx : SameContext s t) (hregs : startRegs first t = (runFrom true true s x).2)
    (y : Bytes) :
    (runFrom true true s x).1 ++ decOutput true t (runFrom true first t y).1 =
      if s.lmode.isBlock = true
      then (runFrom true true s (x ++ y)).1.take x.length ++
        unpadBytes s.lpad ((runFrom true true s (x ++ y)).1.drop x.length) s.blockSize
      else (runFrom true true s (x ++ y)).1 := by
  have hlength : (runFrom true true s x).1.length = x.length := chunk_length hs.inv hs.ctxv hs.op fun _ => hx
  rw [runFrom_append hx hctx hregs, List.take_left' hlength, List.drop_left' hlength, decOutput_eq, hctx.mode,
    hctx.pad, hctx.blockSize]
  simp only [and_true]
  split <;> rfl

/-- Settles O59: the full chunks are whole blocks, so only the last chunk is unpadded, and only it can break a block. -/
theorem decryptStreamIsOneDecryption : Obligations.DecryptStreamIsOneDecryption := by
  intro p data s z n w hs hctxv hhost hidle hsrc hdst hz hn hw
  rw [runFrom_begin true hz] at hw
  obtain ⟨init, final, hdata, hlength, hfinal, -, hcut⟩ := decChunks_readsOf data
  obtain rfl : n = init.length := hn.trans hlength.symm
  have hstream : Streaming true true s := ⟨hs, hctxv, hhost, hidle, .inl rfl⟩
  obtain ⟨first, t, ht, hctx, -, hregs, hloop⟩ := streamChunks_cut (dir := true) hcut [] hstream hsrc hdst
  have hinit := whole_of_full_chunks s hcut.init_length
  have hbroken : final.length % t.blockSize = data.length % s.blockSize := by
    rw [hctx.blockSize, hdata, List.length_append, Nat.add_mod, hinit, Nat.zero_add, Nat.mod_mod]
  rw [List.nil_append] at hloop
  subst hw
  refine ⟨fun hwhole => ?decrypted, fun ⟨hm, hne⟩ => ?broken⟩
  case decrypted =>
    have hlen : (t.lmode.isBlock = false ∧ true = true) ∨ final.length % t.blockSize = 0 := by
      rw [hbroken, hctx.mode]
      exact hwhole.imp_left fun hm => ⟨hm, rfl⟩
    obtain ⟨r, hrun, herror, hout, hdone, -⟩ :=
      dec_chunk (p := p) (c := ⟨final, first, true⟩) ht hlen (by dsimp only; omega) (by dsimp only; omega)
    refine ⟨_, hloop.trans (streamChunks_last hrun herror _), rfl, ?_, ?_, hdone.opact,
      hdone.context.haz.trans hctx.haz⟩
    · rw [hdata, ← decOutput_runFrom_append hstream hinit hctx hregs, hout]
    · rw [hdata, runFrom_append hinit hctx hregs]
      exact hdone.regs
  case broken =>
    obtain ⟨r, hrun, herror, hopact⟩ := dec_chunk_broken (p := p) (c := ⟨final, first, true⟩) ht
      (by rwa [hctx.mode]) (by rwa [hbroken]) (by dsimp only; omega)
    exact ⟨_, hloop.trans (Laws.streamChunks_cons_error hrun herror []), rfl, by rw [hdata, List.take_left' rfl],
      hopact⟩

end Sys2Proof.Proofs

/-! The IV prefixed to a stream: the host loads it by CTX before it streams (70_reset_and_hazards.md R173). -/

namespace Sys2Proof.Proofs

open Machine

/-- A bit of CTRL that is not reserved is kept as the host wrote it (10_state.md R19). -/
theorem getLsbD_and_ctrlMask (v : Word) {k : Nat} (h : ctrlMask.getLsbD k = true) :
    (v &&& ctrlMask).getLsbD k = v.getLsbD k := by
  rw [BitVec.getLsbD_and, h, Bool.and_true]

/-- The core once the host has loaded a context with the IV at SRC2: `mem` and `replies` are left open. -/
def contextLoaded (p : StreamPlace) (iv : Bytes) (m : Mode) (sch : Scheme) (mem : Memory) (replies : List Reply)
    (s : State) : State :=
  { s with
    regs := ⟨p.ctrl &&& 0x00013F77, s.regs.src, s.regs.len, s.regs.dst, p.src2, BitVec.ofNat 32 s.blockSize⟩
    mem := mem, iv := some iv, lmode := m, lpad := sch, lctrle := p.ctrl.getLsbD 12, ctxv := true, opact := false
    outlen := 0, errcode := 0, err := false, done := true, replies := replies }

/-- The core as the host's writes for CTX leave it, with `mem` in BUF and CTX issued. -/
def ctxIssued (p : StreamPlace) (s : State) (mem : Memory) : State :=
  let regs : Operands :=
    ⟨p.ctrl &&& 0x00013F77, s.regs.src, s.regs.len, s.regs.dst, p.src2, BitVec.ofNat 32 s.blockSize⟩
  { s with regs := regs, mem := mem, inflight := some ⟨encode .ctx, regs⟩, done := false, err := false, errcode := 0 }

/-- R121: CTX takes the mode, the scheme, LCTRLE and the IV from what the host wrote. -/
theorem exec_ctx_ctxIssued {p : StreamPlace} {iv : Bytes} {s : State} {m : Mode} {sch : Scheme} {mem : Memory}
    (hkeyed : s.keyed = true) (hm : modeOf (p.ctrl.extractLsb' 4 3) = some m) (hecb : m ≠ .ecb)
    (hsch : schemeOf (p.ctrl.extractLsb' 8 3) = some sch) (hivp : p.ctrl.getLsbD 11 = true)
    (hfit : p.src2.toNat + s.blockSize ≤ Config.bufSize)
    (hread : bufRead (ctxIssued p s mem) p.src2.toNat s.blockSize = iv) :
    exec .ctx (ctxIssued p s mem) = .next (complete 0
      { ctxIssued p s mem with
        iv := some iv, lmode := m, lpad := sch, lctrle := p.ctrl.getLsbD 12, ctxv := true, opact := false }) := by
  have hmode : (ctxIssued p s mem).operands.modeCode = p.ctrl.extractLsb' 4 3 :=
    (extractLsb'_of_masked (mask := ctrlMask) rfl (by decide)).symm
  have hpad : (ctxIssued p s mem).operands.padCode = p.ctrl.extractLsb' 8 3 :=
    (extractLsb'_of_masked (mask := ctrlMask) rfl (by decide)).symm
  have hivpBit : (ctxIssued p s mem).operands.ivp = p.ctrl.getLsbD 11 := getLsbD_and_ctrlMask p.ctrl (by decide)
  have hctrle : (ctxIssued p s mem).operands.ctrle = p.ctrl.getLsbD 12 := getLsbD_and_ctrlMask p.ctrl (by decide)
  have hlen2 : (ctxIssued p s mem).operands.len2N = (ctxIssued p s mem).blockSize := by
    have hfit : p.src2.toNat + s.blockSize ≤ 262144 := hfit
    change (BitVec.ofNat 32 s.blockSize).toNat = s.blockSize
    rw [BitVec.toNat_ofNat]
    omega
  have hexec := exec_ctx_of_iv (s := ctxIssued p s mem) hkeyed (hmode ▸ hm) hecb (hpad ▸ hsch) (hivpBit.trans hivp)
    hlen2 hfit
  rw [hctrle] at hexec
  subst hread
  exact hexec

/-- R121, R173: CTX as the host gives it takes the IV the host has stored at SRC2. -/
theorem hostCommand_ctx {p : StreamPlace} {iv : Bytes} {s : State} {m : Mode} {sch : Scheme} (hkeyed : s.keyed = true)
    (hhost : s.host = []) (hidle : s.inflight = none) (hm : modeOf (p.ctrl.extractLsb' 4 3) = some m) (hecb : m ≠ .ecb)
    (hsch : schemeOf (p.ctrl.extractLsb' 8 3) = some sch) (hivp : p.ctrl.getLsbD 11 = true)
    (hiv : iv.length = s.blockSize) (hfit : p.src2.toNat + s.blockSize ≤ Config.bufSize) :
    ∃ mem replies, storedAt s (contextLoaded p iv m sch mem replies s) p.src2.toNat iv ∧
      hostCommand (ctxScript p iv) p.dst s = .next ⟨contextLoaded p iv m sch mem replies s, [], none⟩ := by
  obtain ⟨mem, hstored, hruns⟩ := hostCommand_runs (p := ctxScript p iv) (dst := p.dst)
    (ws := [(.ctrl, p.ctrl), (.src2, p.src2), (.len2, BitVec.ofNat 32 iv.length)])
    (by simp [ctxScript, Stmt.expand]) (by simp) ctx_carriesHost rfl hhost hidle (hiv ▸ hfit)
  obtain ⟨hread, -⟩ : storedAt s (ctxIssued p s mem) p.src2.toNat iv := storedAt_congr hstored rfl rfl
  rw [hiv] at hread
  have hexec := exec_ctx_ctxIssued hkeyed hm hecb hsch hivp hfit hread
  rw [hiv] at hruns
  obtain ⟨l, hrun⟩ := hruns _ hexec hhost fun _ hpos => absurd hpos (Nat.lt_irrefl 0)
  refine ⟨mem, l ++ s.replies, storedAt_congr hstored rfl rfl, hrun.trans ?_⟩
  rw [contextLoaded, hidle]
  rfl

/-- Settles O60: once CTX has taken the IV, each direction is its loop on the core with that context. -/
theorem ivPrefixIsTheHostsWork : Obligations.IvPrefixIsTheHostsWork := by
  intro p iv data s m sch _ hkeyed hhost hidle hm hecb hsch hivp hiv hfit
  obtain ⟨mem, replies, hstored, hrun⟩ := hostCommand_ctx hkeyed hhost hidle hm hecb hsch hivp hiv hfit
  refine ⟨_, rfl, hstored, ?_, ?_⟩
  · rw [encStreamPrefixed, withIv, hrun, Laws.andThen_next]
  · rw [decStreamPrefixed, withIv, List.take_left' hiv, List.drop_left' hiv, hrun, Laws.andThen_next]

end Sys2Proof.Proofs
